-- ==== Sys2Proof/Word.lean ====
section
/-! DEFINITION. The widths of the hash engine CORE (spec/00_scope.md R6, R7): bytes, 32-bit and 64-bit words.
Bits are numbered from 0 at the least significant bit and all arithmetic wraps (R8), which is `BitVec`'s own. -/

namespace Sys2Proof

/-- `u8`: a byte of the message (R7). -/
abbrev Byte := BitVec 8

/-- `u32`: the width of the 32-bit engine's registers and of a command word (R6, R7, R70). -/
abbrev Half := BitVec 32

/-- `u64`: the width of an operand register, of an address and of the 64-bit engines' registers (R6, R7). -/
abbrev Word := BitVec 64

end Sys2Proof
end

