-- ==== Sys2Proof/Syntax.lean ====
section
/-! DEFINITION. The command set CORE-CMD v1: one constructor of `Instr` per row of spec/opcode_table.json
(spec/30_encoding.md R74). Operand fields stand in the order of the assembly syntax (R78). -/

namespace Sys2Proof

/-- The index of an operand register, `x0` to `x15`: "A register field is the index of the operand register, used
directly" (R72). -/
abbrev Reg := Fin 16

/-- The 20 commands of R74. -/
inductive Instr where
  /-- `NOP` (R190). -/
  | nop
  /-- `SRESET` (R191). -/
  | sreset
  /-- `ROTR32 rd, rs1, rs2` (R91). -/
  | rotr32 (rd rs1 rs2 : Reg)
  /-- `ROTR32I rd, rs1, imm8` (R92). -/
  | rotr32i (rd rs1 : Reg) (imm8 : BitVec 8)
  /-- `ROTR64 rd, rs1, rs2` (R93). -/
  | rotr64 (rd rs1 rs2 : Reg)
  /-- `ROTR64I rd, rs1, imm8` (R94). -/
  | rotr64i (rd rs1 : Reg) (imm8 : BitVec 8)
  /-- `BSWAP32 rd, rs1` (R95). -/
  | bswap32 (rd rs1 : Reg)
  /-- `BSWAP64 rd, rs1` (R96). -/
  | bswap64 (rd rs1 : Reg)
  /-- `MIX32 rd, rs1` (R97). -/
  | mix32 (rd rs1 : Reg)
  /-- `MIX64 rd, rs1` (R98). -/
  | mix64 (rd rs1 : Reg)
  /-- `MUR rd, rs1, rs2` (R99). -/
  | mur (rd rs1 rs2 : Reg)
  /-- `H128TO64 rd, rs1, rs2` (R101). -/
  | h128to64 (rd rs1 rs2 : Reg)
  /-- `COMB rd, rs1, rs2, rs3` (R100). -/
  | comb (rd rs1 rs2 rs3 : Reg)
  /-- `WEAK` (R111). -/
  | weak
  /-- `WEAKM rs1` (R113). -/
  | weakm (rs1 : Reg)
  /-- `LD8 rd, rs1` (R115). -/
  | ld8 (rd rs1 : Reg)
  /-- `LD32 rd, rs1` (R116). -/
  | ld32 (rd rs1 : Reg)
  /-- `LD64 rd, rs1` (R117). -/
  | ld64 (rd rs1 : Reg)
  /-- `HASH imm8` (R187): `imm8` is the requested digest width. -/
  | hash (imm8 : BitVec 8)
  /-- `HASH128S` (R161). -/
  | hash128s
  deriving DecidableEq, Repr

end Sys2Proof
end

