-- ==== Sys2Proof/WellFormed.lean ====
section
/-! DEFINITION. Which command words are well formed, field by field (spec/30_encoding.md R70, R71, R74, R76): the
opcode is in the table and every field the command does not use is zero. This is the "used fields" column of R74; the
decoder (Decode.lean) is written apart from it. -/

namespace Sys2Proof

/-- The six fields of the one command format (R70). -/
structure Fields where
  op : BitVec 8
  rd : BitVec 4
  rs1 : BitVec 4
  rs2 : BitVec 4
  rs3 : BitVec 4
  imm8 : BitVec 8
  deriving DecidableEq, Repr

/-- Which of the five operand fields a command uses (R74, column "used fields"). -/
structure Usage where
  rd : Bool
  rs1 : Bool
  rs2 : Bool
  rs3 : Bool
  imm8 : Bool
  deriving DecidableEq, Repr

/-- The used fields by opcode (R74); `none` for an opcode that is not in the table (R76). -/
def usageOf (op : BitVec 8) : Option Usage :=
  match op.toNat with
  | 0x00 => some ⟨false, false, false, false, false⟩
  | 0x01 => some ⟨false, false, false, false, false⟩
  | 0x10 => some ⟨true, true, true, false, false⟩
  | 0x11 => some ⟨true, true, false, false, true⟩
  | 0x12 => some ⟨true, true, true, false, false⟩
  | 0x13 => some ⟨true, true, false, false, true⟩
  | 0x14 => some ⟨true, true, false, false, false⟩
  | 0x15 => some ⟨true, true, false, false, false⟩
  | 0x16 => some ⟨true, true, false, false, false⟩
  | 0x17 => some ⟨true, true, false, false, false⟩
  | 0x18 => some ⟨true, true, true, false, false⟩
  | 0x19 => some ⟨true, true, true, false, false⟩
  | 0x1A => some ⟨true, true, true, true, false⟩
  | 0x20 => some ⟨false, false, false, false, false⟩
  | 0x21 => some ⟨false, true, false, false, false⟩
  | 0x24 => some ⟨true, true, false, false, false⟩
  | 0x25 => some ⟨true, true, false, false, false⟩
  | 0x26 => some ⟨true, true, false, false, false⟩
  | 0x30 => some ⟨false, false, false, false, true⟩
  | 0x31 => some ⟨false, false, false, false, false⟩
  | _ => none

/-- The check of R71: the opcode is in the table and every unused field is zero. -/
def Fields.legal (f : Fields) : Bool :=
  match usageOf f.op with
  | none => false
  | some u =>
    (u.rd || f.rd == 0) && (u.rs1 || f.rs1 == 0) && (u.rs2 || f.rs2 == 0) && (u.rs3 || f.rs3 == 0)
      && (u.imm8 || f.imm8 == 0)

/-- The field of a register operand (R72). -/
def Reg.field (r : Reg) : BitVec 4 := BitVec.ofFin r

/-- A command as its six fields (R70, R74): the unused ones are zero. -/
def Instr.fields : Instr → Fields
  | .nop => ⟨0x00, 0, 0, 0, 0, 0⟩
  | .sreset => ⟨0x01, 0, 0, 0, 0, 0⟩
  | .rotr32 rd rs1 rs2 => ⟨0x10, Reg.field rd, Reg.field rs1, Reg.field rs2, 0, 0⟩
  | .rotr32i rd rs1 imm8 => ⟨0x11, Reg.field rd, Reg.field rs1, 0, 0, imm8⟩
  | .rotr64 rd rs1 rs2 => ⟨0x12, Reg.field rd, Reg.field rs1, Reg.field rs2, 0, 0⟩
  | .rotr64i rd rs1 imm8 => ⟨0x13, Reg.field rd, Reg.field rs1, 0, 0, imm8⟩
  | .bswap32 rd rs1 => ⟨0x14, Reg.field rd, Reg.field rs1, 0, 0, 0⟩
  | .bswap64 rd rs1 => ⟨0x15, Reg.field rd, Reg.field rs1, 0, 0, 0⟩
  | .mix32 rd rs1 => ⟨0x16, Reg.field rd, Reg.field rs1, 0, 0, 0⟩
  | .mix64 rd rs1 => ⟨0x17, Reg.field rd, Reg.field rs1, 0, 0, 0⟩
  | .mur rd rs1 rs2 => ⟨0x18, Reg.field rd, Reg.field rs1, Reg.field rs2, 0, 0⟩
  | .h128to64 rd rs1 rs2 => ⟨0x19, Reg.field rd, Reg.field rs1, Reg.field rs2, 0, 0⟩
  | .comb rd rs1 rs2 rs3 => ⟨0x1A, Reg.field rd, Reg.field rs1, Reg.field rs2, Reg.field rs3, 0⟩
  | .weak => ⟨0x20, 0, 0, 0, 0, 0⟩
  | .weakm rs1 => ⟨0x21, 0, Reg.field rs1, 0, 0, 0⟩
  | .ld8 rd rs1 => ⟨0x24, Reg.field rd, Reg.field rs1, 0, 0, 0⟩
  | .ld32 rd rs1 => ⟨0x25, Reg.field rd, Reg.field rs1, 0, 0, 0⟩
  | .ld64 rd rs1 => ⟨0x26, Reg.field rd, Reg.field rs1, 0, 0, 0⟩
  | .hash imm8 => ⟨0x30, 0, 0, 0, 0, imm8⟩
  | .hash128s => ⟨0x31, 0, 0, 0, 0, 0⟩

/-- A command is well formed when its fields pass the check of R71. The syntax's types (`Reg` of 16 indices, an immediate
of 8 bits) leave no term of `Instr` out: Laws/PerInstr.lean shows it constructor by constructor. -/
def Instr.wellFormed (i : Instr) : Bool := i.fields.legal

end Sys2Proof
end

