-- ==== Sys2Proof/Decode.lean ====
section
/-! DEFINITION. The decoder of command words (spec/30_encoding.md R70 to R77), total on every 32-bit word, the encoder, and
the opcode table as mask and match (R74, opcode_table.json), which the decoder does not use. -/

namespace Sys2Proof

/-- The register field whose least significant bit is bit `lo` of the command word (R70). -/
def regField (w : BitVec 32) (lo : Nat) : Reg := (w.extractLsb' lo 4).toFin

/-- `op`, bits 31:24 (R70). -/
def opField (w : BitVec 32) : BitVec 8 := w.extractLsb' 24 8
/-- `rd`, bits 23:20 (R70). -/
def rdField (w : BitVec 32) : Reg := regField w 20
/-- `rs1`, bits 19:16 (R70). -/
def rs1Field (w : BitVec 32) : Reg := regField w 16
/-- `rs2`, bits 15:12 (R70). -/
def rs2Field (w : BitVec 32) : Reg := regField w 12
/-- `rs3`, bits 11:8 (R70). -/
def rs3Field (w : BitVec 32) : Reg := regField w 8
/-- `imm8`, bits 7:0 (R70, R72). -/
def immField (w : BitVec 32) : BitVec 8 := w.extractLsb' 0 8

/-- The command `i` where its unused fields are zero; no command otherwise (R71, R76). -/
def onlyIf (unusedZero : Bool) (i : Instr) : Option Instr := if unusedZero then some i else none

/-- The decoder: the command a word selects, `none` for an illegal word (R71, R76). -/
def decode (w : BitVec 32) : Option Instr :=
  let rd := rdField w
  let rs1 := rs1Field w
  let rs2 := rs2Field w
  let rs3 := rs3Field w
  let imm := immField w
  match (opField w).toNat with
  | 0x00 => onlyIf (rd == 0 && rs1 == 0 && rs2 == 0 && rs3 == 0 && imm == 0) .nop
  | 0x01 => onlyIf (rd == 0 && rs1 == 0 && rs2 == 0 && rs3 == 0 && imm == 0) .sreset
  | 0x10 => onlyIf (rs3 == 0 && imm == 0) (.rotr32 rd rs1 rs2)
  | 0x11 => onlyIf (rs2 == 0 && rs3 == 0) (.rotr32i rd rs1 imm)
  | 0x12 => onlyIf (rs3 == 0 && imm == 0) (.rotr64 rd rs1 rs2)
  | 0x13 => onlyIf (rs2 == 0 && rs3 == 0) (.rotr64i rd rs1 imm)
  | 0x14 => onlyIf (rs2 == 0 && rs3 == 0 && imm == 0) (.bswap32 rd rs1)
  | 0x15 => onlyIf (rs2 == 0 && rs3 == 0 && imm == 0) (.bswap64 rd rs1)
  | 0x16 => onlyIf (rs2 == 0 && rs3 == 0 && imm == 0) (.mix32 rd rs1)
  | 0x17 => onlyIf (rs2 == 0 && rs3 == 0 && imm == 0) (.mix64 rd rs1)
  | 0x18 => onlyIf (rs3 == 0 && imm == 0) (.mur rd rs1 rs2)
  | 0x19 => onlyIf (rs3 == 0 && imm == 0) (.h128to64 rd rs1 rs2)
  | 0x1A => onlyIf (imm == 0) (.comb rd rs1 rs2 rs3)
  | 0x20 => onlyIf (rd == 0 && rs1 == 0 && rs2 == 0 && rs3 == 0 && imm == 0) .weak
  | 0x21 => onlyIf (rd == 0 && rs2 == 0 && rs3 == 0 && imm == 0) (.weakm rs1)
  | 0x24 => onlyIf (rs2 == 0 && rs3 == 0 && imm == 0) (.ld8 rd rs1)
  | 0x25 => onlyIf (rs2 == 0 && rs3 == 0 && imm == 0) (.ld32 rd rs1)
  | 0x26 => onlyIf (rs2 == 0 && rs3 == 0 && imm == 0) (.ld64 rd rs1)
  | 0x30 => onlyIf (rd == 0 && rs1 == 0 && rs2 == 0 && rs3 == 0) (.hash imm)
  | 0x31 => onlyIf (rd == 0 && rs1 == 0 && rs2 == 0 && rs3 == 0 && imm == 0) .hash128s
  | _ => none

/-- A register operand as its 4-bit field (R70, R72). -/
def regBits (r : Reg) : BitVec 4 := BitVec.ofFin r

/-- The command word with the given fields (R70: `op` in the most significant byte). -/
def commandWord (op : BitVec 8) (rd rs1 rs2 rs3 : Reg) (imm8 : BitVec 8) : BitVec 32 :=
  op ++ regBits rd ++ regBits rs1 ++ regBits rs2 ++ regBits rs3 ++ imm8

/-- The encoder: the command word of a command (R70, R74), unused fields zero (R71). -/
def encode : Instr → BitVec 32
  | .nop => commandWord 0x00 0 0 0 0 0
  | .sreset => commandWord 0x01 0 0 0 0 0
  | .rotr32 rd rs1 rs2 => commandWord 0x10 rd rs1 rs2 0 0
  | .rotr32i rd rs1 imm8 => commandWord 0x11 rd rs1 0 0 imm8
  | .rotr64 rd rs1 rs2 => commandWord 0x12 rd rs1 rs2 0 0
  | .rotr64i rd rs1 imm8 => commandWord 0x13 rd rs1 0 0 imm8
  | .bswap32 rd rs1 => commandWord 0x14 rd rs1 0 0 0
  | .bswap64 rd rs1 => commandWord 0x15 rd rs1 0 0 0
  | .mix32 rd rs1 => commandWord 0x16 rd rs1 0 0 0
  | .mix64 rd rs1 => commandWord 0x17 rd rs1 0 0 0
  | .mur rd rs1 rs2 => commandWord 0x18 rd rs1 rs2 0 0
  | .h128to64 rd rs1 rs2 => commandWord 0x19 rd rs1 rs2 0 0
  | .comb rd rs1 rs2 rs3 => commandWord 0x1A rd rs1 rs2 rs3 0
  | .weak => commandWord 0x20 0 0 0 0 0
  | .weakm rs1 => commandWord 0x21 0 rs1 0 0 0
  | .ld8 rd rs1 => commandWord 0x24 rd rs1 0 0 0
  | .ld32 rd rs1 => commandWord 0x25 rd rs1 0 0 0
  | .ld64 rd rs1 => commandWord 0x26 rd rs1 0 0 0
  | .hash imm8 => commandWord 0x30 0 0 0 0 imm8
  | .hash128s => commandWord 0x31 0 0 0 0 0

/-- One row of the opcode table: "a word `w` selects a row exactly when `w & mask = match`" (R71). -/
structure Row where
  mnemonic : String
  pat : BitVec 32
  mask : BitVec 32
  deriving DecidableEq, Repr

/-- R74's columns `match` and `mask`. -/
def opcodeTable : List Row :=
  [⟨"NOP", 0x00000000, 0xFFFFFFFF⟩, ⟨"SRESET", 0x01000000, 0xFFFFFFFF⟩, ⟨"ROTR32", 0x10000000, 0xFF000FFF⟩,
   ⟨"ROTR32I", 0x11000000, 0xFF00FF00⟩, ⟨"ROTR64", 0x12000000, 0xFF000FFF⟩, ⟨"ROTR64I", 0x13000000, 0xFF00FF00⟩,
   ⟨"BSWAP32", 0x14000000, 0xFF00FFFF⟩, ⟨"BSWAP64", 0x15000000, 0xFF00FFFF⟩, ⟨"MIX32", 0x16000000, 0xFF00FFFF⟩,
   ⟨"MIX64", 0x17000000, 0xFF00FFFF⟩] ++
  [⟨"MUR", 0x18000000, 0xFF000FFF⟩, ⟨"H128TO64", 0x19000000, 0xFF000FFF⟩, ⟨"COMB", 0x1A000000, 0xFF0000FF⟩,
   ⟨"WEAK", 0x20000000, 0xFFFFFFFF⟩, ⟨"WEAKM", 0x21000000, 0xFFF0FFFF⟩, ⟨"LD8", 0x24000000, 0xFF00FFFF⟩,
   ⟨"LD32", 0x25000000, 0xFF00FFFF⟩, ⟨"LD64", 0x26000000, 0xFF00FFFF⟩, ⟨"HASH", 0x30000000, 0xFFFFFF00⟩,
   ⟨"HASH128S", 0x31000000, 0xFFFFFFFF⟩]

/-- Whether a word selects a row (R71). -/
def Row.selects (r : Row) (w : BitVec 32) : Bool := w &&& r.mask == r.pat

/-- The six fields of a command word (R70). -/
def fieldsOfWord (w : BitVec 32) : Fields :=
  ⟨w.extractLsb' 24 8, w.extractLsb' 20 4, w.extractLsb' 16 4, w.extractLsb' 12 4, w.extractLsb' 8 4, w.extractLsb' 0 8⟩

/-- The mask R71 gives a command with these used fields: "a 1 for every bit of `op` and of every unused field". -/
def Usage.mask (u : Usage) : BitVec 32 :=
  (0xFF : BitVec 8) ++ (if u.rd then 0 else 0xF : BitVec 4) ++ (if u.rs1 then 0 else 0xF : BitVec 4) ++
    (if u.rs2 then 0 else 0xF : BitVec 4) ++ (if u.rs3 then 0 else 0xF : BitVec 4) ++ (if u.imm8 then 0 else 0xFF : BitVec 8)

/-- The mnemonic of a command, as the table spells it (R74). -/
def Instr.mnemonic : Instr → String
  | .nop => "NOP"
  | .sreset => "SRESET"
  | .rotr32 _ _ _ => "ROTR32"
  | .rotr32i _ _ _ => "ROTR32I"
  | .rotr64 _ _ _ => "ROTR64"
  | .rotr64i _ _ _ => "ROTR64I"
  | .bswap32 _ _ => "BSWAP32"
  | .bswap64 _ _ => "BSWAP64"
  | .mix32 _ _ => "MIX32"
  | .mix64 _ _ => "MIX64"
  | .mur _ _ _ => "MUR"
  | .h128to64 _ _ _ => "H128TO64"
  | .comb _ _ _ _ => "COMB"
  | .weak => "WEAK"
  | .weakm _ => "WEAKM"
  | .ld8 _ _ => "LD8"
  | .ld32 _ _ => "LD32"
  | .ld64 _ _ => "LD64"
  | .hash _ => "HASH"
  | .hash128s => "HASH128S"

/-- The host's question to the decoder: the bits `w` of a table row of `nbits` bits, bit 0 the least significant. A command
arrives as a value on the bus, not as bytes in memory (R51, R70), so there is no layout to choose. -/
def decodeTableWord (nbits w : Nat) : Option Instr := decode (BitVec.ofNat 32 (w % 2 ^ nbits))

end Sys2Proof
end

