-- ==== Sys2Proof/Config.lean ====
section
/-! DEFINITION. What an implementation of CORE fixes (spec/00_scope.md R6, spec/92_eei_decisions.md "Open
parameters"), the one source of free values, and what a byte of memory that nothing has written reads as. -/

namespace Sys2Proof

/-- `ITER_RULE` (R6, D9): how often the 20-byte and the 64-byte loop run when the length is a multiple of the group. -/
inductive IterRule where
  /-- `(n - 1) div G`, the spec's default. -/
  | ref
  /-- `n div G`. -/
  | literal
  deriving DecidableEq, Repr

/-- `BYTE_EXT32` (R6, D10), open: how a message byte is widened in the 0..4 bucket of the 32-bit engine (R121). -/
inductive ByteExt where
  /-- The byte's top bit is replicated. -/
  | sext
  /-- The byte is extended with zeros. -/
  | zext
  deriving DecidableEq, Repr

/-- The two parameters the spec leaves to the implementation. A model "takes the open ones as arguments" (R6): State
carries them, no step writes them, and a statement about every state is about every choice (log entries 8, 9). -/
structure Params where
  iterRule : IterRule
  byteExt : ByteExt
  deriving DecidableEq, Repr

/-- Where the spec says "any value" (R42, R25, R203, R60; U1, U2, U3, U5 of spec/93_implementation_defined.md) the model
takes `Config.freeWord draw slot`: `draw` is a counter in State, `slot` tells the values of one draw apart. It has no
body, so nothing can be proved of its values (log entry 5). -/
opaque Config.freeWord : Nat → Nat → Word

/-- DESIGN CHOICE, unsafe (log entry 7): what a byte of message memory that nothing has written reads as. The memory is the
host's (R50) and every address answers (R58); the spec gives it no initial contents. -/
def Config.unlistedByte : Byte := 0

end Sys2Proof
end

