-- ==== Sys2Proof/Machine/State.lean ====
section
/-! DEFINITION. The state of the whole system (spec/10_state.md R20, spec/45_system.md R185): CORE's registers, the
message memory, the host's pending moves, and the model's own bookkeeping. Plain data. -/

namespace Sys2Proof.Machine

/-- `PHASE` (R27). The value 3 "never occurs" and has no constructor (U18). -/
inductive Phase where
  /-- 0: the sequencer waits for a command. -/
  | idle
  /-- 1: a hash is in its streaming loop. -/
  | loop
  /-- 2: the loop is done; the finish step is next. -/
  | fin
  deriving DecidableEq, Repr

/-- `MODE` (R27): which streaming loop runs. -/
inductive Mode where
  /-- 0: the 20-byte loop of the 32-bit engine. -/
  | m32
  /-- 1: the 64-byte loop of the 64-bit engine. -/
  | m64
  /-- 2: the 128-byte loop of the 128-bit engine. -/
  | m128
  /-- 3: the 16-byte loop of CityMurmur. -/
  | mcm
  deriving DecidableEq, Repr

/-- `COND` (R30, R200): the condition of the most recent command. The values 5 to 15 "never occur" (U18). -/
inductive Cond where
  /-- 0 `OK`. -/
  | ok
  /-- 1 `UNSUPPORTED_WIDTH` (R201). -/
  | unsupportedWidth
  /-- 2 `CANCELLED` (R202). -/
  | cancelled
  /-- 3 `BOUNDS` (R207, R208). -/
  | bounds
  /-- 4 `ILLEGAL_CMD` (R204). -/
  | illegalCmd
  deriving DecidableEq, Repr

/-- The working registers `S.*` of the streaming state (R26). "That the register sets are distinct pieces of hardware, not
shared storage, is this spec's choice." -/
structure Work where
  f : Half
  g : Half
  h : Half
  x : Word
  y : Word
  z : Word
  v0 : Word
  v1 : Word
  w0 : Word
  w1 : Word
  a : Word
  b : Word
  c : Word
  d : Word
  soff : Word
  mlen : Word
  deriving DecidableEq, Repr

/-- DESIGN CHOICE, unsafe (log entry 4): the working registers at reset. R42 leaves them unspecified, and "no rule reads a
working register that the same hash has not written" (R26). -/
def Work.zero : Work := ⟨0, 0, 0, 0, 0, 0, 0, 0, 0, 0, 0, 0, 0, 0, 0, 0⟩

/-- The message memory (R40, R50): the bytes that differ from `Config.unlistedByte`, addresses strictly rising. -/
abbrev Memory := List Host.Cell

/-- What the host does next (R185): the transitions of the agent "host", and `run`, its leave for the sequencer to move.
Offsets and widths are numbers of the bus (R38); the bus has no more than R39 gives it. -/
inductive HostMove where
  /-- The host makes no move: the sequencer takes its next step, if it has one. -/
  | run
  /-- Bus read of `width` bits at byte offset `off` (R38). -/
  | busRead (off width : Nat)
  /-- Bus write of the value `d`, `width` bits at byte offset `off` (R38). -/
  | busWrite (off width : Nat) (d : Word)
  /-- The host writes a byte of the message memory (R185, row "memory write"). -/
  | memWrite (addr : Word) (b : Byte)
  /-- The reset input is asserted and released (R230). -/
  | reset
  deriving DecidableEq, Repr

/-- The state of the whole system. -/
structure State where
  /-- Operand registers `x[0]` to `x[15]` (R21). -/
  x : Vector Word 16
  /-- The model's: whether anything has written `x[i]` since reset or `SRESET` (R42, U1; log entry 3). -/
  written : Vector Bool 16
  /-- Working registers (R26). -/
  work : Work
  /-- `PHASE` (R27). -/
  phase : Phase
  /-- `MODE` (R27). -/
  mode : Mode
  /-- `POS` (R27): offset of the next group. -/
  pos : Word
  /-- `CNT` (R27): iterations still to run. -/
  cnt : Word
  /-- `COND` (R30). -/
  cond : Cond
  /-- `DV` (R31). -/
  dv : Bool
  /-- `DW` (R31). -/
  dw : BitVec 8
  /-- `CTRL.CANCEL` (R32). -/
  cancel : Bool
  /-- `BASE` (R33). -/
  base : Word
  /-- `LEN` (R34). -/
  len : Word
  /-- `DIGEST0` (R35). -/
  digest0 : Word
  /-- `DIGEST1` (R35). -/
  digest1 : Word
  /-- The message memory, the host's (R50). -/
  mem : Memory
  /-- The model's: the implementation's parameters (R6), which no step writes. -/
  params : Params
  /-- The model's: the next free value to draw (log entry 5). -/
  draws : Nat
  /-- The model's: the host has written the window of the running hash (R60, U5; log entry 10). -/
  dutyBroken : Bool
  /-- The host's next moves, in order (R185; log entry 1). -/
  host : List HostMove
  /-- What the host's last bus read returned (R185; log entry 15). -/
  busData : Word
  deriving DecidableEq, Repr

/-- CORE has no fault: every outcome of a command is a condition code in `COND` (R200, R210); no arithmetic, alignment or
memory-access fault exists (R209). So no step stops with one (log entry 13). -/
inductive Fault where
  deriving DecidableEq, Repr

/-- Why a step is refused. -/
inductive Refusal where
  /-- Raised by `exec` for a command that has no meaning yet; no arm raises it. Safe. -/
  | notModelled (mnemonic : String)
  /-- Raised by a bus read or write outside the register map: an offset of 0xB8 or above, an offset that is no multiple of 8,
  or a width other than 64 bits. "this spec gives them no meaning, and a model refuses a host transaction of that kind"
  (R39, U4). Safe: the host has no such move. -/
  | noSuchRegister
  deriving DecidableEq, Repr

/-- Where the spec gives no reset value for the operand registers, the stored bits are 0: DESIGN CHOICE, unsafe (log entry
3). They are never read as 0, since nothing has written them. -/
def State.resetOf (p : Params) : State where
  x := Vector.replicate 16 0
  written := Vector.replicate 16 false
  work := Work.zero
  phase := .idle
  mode := .m32
  pos := 0
  cnt := 0
  cond := .ok
  dv := false
  dw := 0
  cancel := false
  base := 0
  len := 0
  digest0 := 0
  digest1 := 0
  mem := []
  params := p
  draws := 0
  dutyBroken := false
  host := []
  busData := 0

/-- The machine right after reset (R42, R230): `ITER_RULE` at the spec's default `ref`, `BYTE_EXT32` at `sext`, the value
spec/95_test_vectors.md takes "unless a line says otherwise" (DESIGN CHOICE, unsafe: log entry 9). -/
def State.reset : State := State.resetOf ⟨.ref, .sext⟩

end Sys2Proof.Machine
end

