-- ==== Sys2Proof/Machine/Ops.lean ====
section
/-! DEFINITION. The named operations over memory, registers and the sequencer that every meaning is built from, with the
raising of a condition (spec/60_exceptions.md R203) as one operation. There is no return operation to stand beside it:
"There is no return command, because nothing was entered" (R211). -/

namespace Sys2Proof.Machine

/-! ## Message memory (spec/20_memory.md) -/

/-- The byte at an address. Reading has no side effect (R57) and never fails (R58). -/
def Memory.read : Memory → Nat → Byte
  | [], _ => Config.unlistedByte
  | (k, b) :: m, a => if k = a then b else Memory.read m a

/-- Write one byte, keeping the addresses rising and listing no byte that reads as an unlisted one. Only the host writes
memory (R50, R56). -/
def Memory.write : Memory → Nat → Byte → Memory
  | [], a, v => if v = Config.unlistedByte then [] else [(a, v)]
  | (k, b) :: m, a, v =>
    if a < k then (if v = Config.unlistedByte then (k, b) :: m else (a, v) :: (k, b) :: m)
    else if a = k then (if v = Config.unlistedByte then m else (a, v) :: m)
    else (k, b) :: Memory.write m a v

/-- The canonical form of the memory: addresses strictly rising and below 2^64 (R40), no listed byte equal to what an unlisted
address reads as. -/
abbrev Memory.wf (m : Memory) : Prop :=
  m.Pairwise (fun p q => p.1 < q.1) ∧ ∀ p ∈ m, p.1 < 2 ^ 64 ∧ p.2 ≠ Config.unlistedByte

/-! ## Width changes (R9) and little-endian assembly (R51) -/

/-- `zext_64` of a 32-bit value (R9). -/
def zext64 (v : Half) : Word := v.setWidth 64

/-- `trunc_32`, bits 31:0 (R9). -/
def trunc32 (v : Word) : Half := v.setWidth 32

/-- `MemRead(addr, 1)` (R10, R51). -/
def memRead8 (m : Memory) (addr : Word) : Byte := m.read addr.toNat

/-- `MemRead(addr, 4)`: "the byte at the lowest address is the least significant" (R51). -/
def memRead32 (m : Memory) (addr : Word) : Half :=
  memRead8 m (addr + 3) ++ memRead8 m (addr + 2) ++ memRead8 m (addr + 1) ++ memRead8 m addr

/-- `MemRead(addr, 8)` (R51). -/
def memRead64 (m : Memory) (addr : Word) : Word :=
  memRead8 m (addr + 7) ++ memRead8 m (addr + 6) ++ memRead8 m (addr + 5) ++ memRead8 m (addr + 4) ++
    memRead8 m (addr + 3) ++ memRead8 m (addr + 2) ++ memRead8 m (addr + 1) ++ memRead8 m addr

/-- `LE64(v)`: the eight bytes of `v`, least significant first (R36). -/
def le64 (v : Word) : List Byte :=
  [v.extractLsb' 0 8, v.extractLsb' 8 8, v.extractLsb' 16 8, v.extractLsb' 24 8,
   v.extractLsb' 32 8, v.extractLsb' 40 8, v.extractLsb' 48 8, v.extractLsb' 56 8]

/-! ## Free values (log entry 5) -/

/-- Draw `draw`'s working registers: any value (R25, R203, U2). The slots from 16 on are the working registers'. -/
def freeWork (draw : Nat) : Work where
  f := trunc32 (Config.freeWord draw 16)
  g := trunc32 (Config.freeWord draw 17)
  h := trunc32 (Config.freeWord draw 18)
  x := Config.freeWord draw 19
  y := Config.freeWord draw 20
  z := Config.freeWord draw 21
  v0 := Config.freeWord draw 22
  v1 := Config.freeWord draw 23
  w0 := Config.freeWord draw 24
  w1 := Config.freeWord draw 25
  a := Config.freeWord draw 26
  b := Config.freeWord draw 27
  c := Config.freeWord draw 28
  d := Config.freeWord draw 29
  soff := Config.freeWord draw 30
  mlen := Config.freeWord draw 31

/-- The mode a 2-bit value names (R27). -/
def Mode.ofBits (v : BitVec 2) : Mode :=
  match v.toNat with
  | 0 => .m32
  | 1 => .m64
  | 2 => .m128
  | _ => .mcm

/-- Draw `draw`'s `MODE`: any value (R203, U3). -/
def freeMode (draw : Nat) : Mode := Mode.ofBits ((Config.freeWord draw 32).setWidth 2)

/-! ## Operand registers (spec/10_state.md R21 to R24) -/

/-- What the read number `slot` of this step gets from operand register `i`: its 64 bits, or any value where nothing has
written it since reset ("a fresh draw at every read", R42, U1). -/
def State.operand (s : State) (slot : Nat) (i : Reg) : Word :=
  if s.written[i] then s.x[i] else Config.freeWord s.draws slot

/-- `x[i] <- v` (R10, R21). None is hardwired. -/
def State.setX (s : State) (i : Reg) (v : Word) : State :=
  { s with x := s.x.set i v, written := s.written.set i true }

/-! ## Ends of a command -/

/-- The next step draws other free values. -/
def State.tick (s : State) : State := { s with draws := s.draws + 1 }

/-- A command that completes in its own step without a condition: `COND <- OK` (R30, R186, R203). -/
def State.ok (s : State) : State := { s.tick with cond := .ok }

/-- `PHASE <- IDLE`; the working registers, `MODE`, `POS` and `CNT` become unspecified (R25, R203, U2, U3). -/
def State.release (s : State) : State :=
  { s.tick with
    phase := .idle
    work := freeWork s.draws
    mode := freeMode s.draws
    pos := Config.freeWord s.draws 33
    cnt := Config.freeWord s.draws 34 }

/-- `raise <Condition>` (R203): the code goes to `COND`, `PHASE` to `IDLE`, the internal registers become unspecified. No
operand register, digest register, `BASE`, `LEN` or `CANCEL` is written; `DV` and `DW` stay as the step left them; control
goes nowhere (R210). -/
def State.raise (s : State) (c : Cond) : State := { s.release with cond := c }

/-- Write the digest of a completed hash (R35, R31): `DV <- 1`, `DW <- w`; the sequencer goes idle. -/
def State.deliver (s : State) (w : BitVec 8) (d0 d1 : Word) : State :=
  { s.release with digest0 := d0, digest1 := d1, dv := true, dw := w }

/-- A hash that completes in its start step (R120, R140, R162): the digest, and `COND <- OK`. -/
def State.complete (s : State) (w : BitVec 8) (d0 d1 : Word) : State :=
  { s.deliver w d0 d1 with cond := .ok }

/-- A start step that enters a loop (R28): `PHASE <- LOOP`, `COND <- OK`. -/
def State.enterLoop (s : State) (m : Mode) (pos cnt : Word) (w : Work) : State :=
  { s.tick with work := w, mode := m, pos := pos, cnt := cnt, phase := .loop, cond := .ok }

/-- The end of a loop step (R28): `POS` and `CNT` advance; "when `CNT` becomes 0 it sets `PHASE <- FIN`". -/
def State.advance (s : State) (group : Word) (w : Work) : State :=
  { s with
    work := w
    pos := s.pos + group
    cnt := s.cnt - 1
    phase := if s.cnt - 1 = 0 then .fin else s.phase }

/-- A word of the digest of a hash that ran over several steps: the value computed, or any value where the host wrote the
window meanwhile (R60, U5). Slots 40 and 41 are the digest's. -/
def State.promised (s : State) (slot : Nat) (v : Word) : Word :=
  if s.dutyBroken then Config.freeWord s.draws slot else v

/-- What a reset leaves (R42, R230) and `SRESET` too (R191): the listed registers at 0; the operand registers keep their bits
but count as unwritten, the working registers are unspecified (log entry 6). The memory is the host's and stays. -/
def State.resetCore (s : State) : State :=
  { s.tick with
    written := Vector.replicate 16 false
    work := freeWork s.draws
    phase := .idle
    mode := .m32
    pos := 0
    cnt := 0
    cond := .ok
    dv := false
    dw := 0
    cancel := false
    base := 0
    len := 0
    digest0 := 0
    digest1 := 0
    dutyBroken := false }

/-- `k` groups of `g` bytes from offset `p` on, each consumed by `round`, "in ascending order of offset and never skipped"
(R28, R235). -/
def groupsOf (round : Word → Work → Work) (g : Word) : Nat → Word → Work → Work
  | 0, _, w => w
  | k + 1, p, w => groupsOf round g k (p + g) (round p w)

/-! ## The message window (spec/20_memory.md R54) -/

/-- `BASE + LEN > 2^64`, "the sum taken over the integers" (R207). -/
def State.windowWraps (s : State) : Bool := decide (2 ^ 64 < s.base.toNat + s.len.toNat)

/-- The check of a primitive read of `k` bytes at offset `o` (R113, R115 to R117, R208): the window wraps, or
`o + k > LEN` over the integers. The middle disjunct is implied by the last ("`LEN < 32` always raises `BOUNDS`", R113). -/
def State.outOfBounds (s : State) (o : Word) (k : Nat) : Bool :=
  s.windowWraps || decide (s.len.toNat < k) || decide (s.len.toNat < o.toNat + k)

/-- The address lies in `[BASE, BASE + LEN)` (R54). -/
def State.inWindow (s : State) (addr : Word) : Bool :=
  decide (s.base.toNat ≤ addr.toNat) && decide (addr.toNat < s.base.toNat + s.len.toNat)

/-- The common part of `HASH` and `HASH128S` (R187), in its order: `DV`, `DW` cleared; the width check (`widthOk`), the
cancellation check "at the top of the function", the window check; then the start step. -/
def State.acceptHash (s : State) (widthOk : Bool) (start : State → State) : State :=
  let s1 : State := { s with dv := false, dw := 0, dutyBroken := false }
  if widthOk = false then s1.raise .unsupportedWidth
  else if s1.cancel = true then s1.raise .cancelled
  else if s1.windowWraps = true then s1.raise .bounds
  else start s1

end Sys2Proof.Machine
end

