-- ==== Sys2Proof/Machine/Flags.lean ====
section
/-! DEFINITION. The block's only flags: `COND`, `DV`, `DW` and the sequencer's fields as `STATUS` shows them
(spec/10_state.md R27, R29 to R31), and the byte form of the digest (R36). "no arithmetic operation sets a flag" (R30). -/

namespace Sys2Proof.Machine

/-- The code of `PHASE` (R27). -/
def Phase.code : Phase → BitVec 2
  | .idle => 0
  | .loop => 1
  | .fin => 2

/-- The code of `MODE` (R27). -/
def Mode.code : Mode → BitVec 2
  | .m32 => 0
  | .m64 => 1
  | .m128 => 2
  | .mcm => 3

/-- The code of `COND` (R30, R200). -/
def Cond.code : Cond → BitVec 4
  | .ok => 0
  | .unsupportedWidth => 1
  | .cancelled => 2
  | .bounds => 3
  | .illegalCmd => 4

/-- `BUSY`: the predicate `PHASE != IDLE` (R27). -/
def State.busy (s : State) : Bool := s.phase != .idle

/-- `MODE` as `STATUS` shows it: "zero when `PHASE = IDLE`" (R29). -/
def State.shownMode (s : State) : BitVec 2 := if s.busy then s.mode.code else 0

/-- `STATUS` (R29), most significant part first: `[63:24]` zero, `[23:16] DW`, `[15:12]` zero, `[11:10] MODE`, `[9:8] PHASE`,
`[7:4] COND`, `[3:2]` zero, `[1] DV`, `[0] BUSY`. -/
def State.status (s : State) : Word :=
  (0 : BitVec 40) ++ s.dw ++ (0 : BitVec 4) ++ s.shownMode ++ s.phase.code ++ s.cond.code ++ (0 : BitVec 2) ++
    BitVec.ofBool s.dv ++ BitVec.ofBool s.busy

/-- `CTRL` as it reads: bits 63:1 zero, bit 0 `CANCEL` (R32). -/
def State.ctrl (s : State) : Word := (BitVec.ofBool s.cancel).setWidth 64

/-- The byte form of the digest: "the first `DW/8` bytes of the 16-byte sequence `LE64(DIGEST0) ++ LE64(DIGEST1)`" (R36). -/
def State.digestBytes (s : State) : List Byte := (le64 s.digest0 ++ le64 s.digest1).take (s.dw.toNat / 8)

end Sys2Proof.Machine
end

