-- ==== Sys2Proof/Machine/Operands.lean ====
section
/-! DEFINITION. The operand forms: 32-bit and 64-bit register operands, the immediate count, the fixed registers of
`WEAK`, `WEAKM` and `HASH128S`, and message operands at `BASE + offset` (spec/10_state.md R22, R23; spec/30_encoding.md R72;
spec/41_weakpair_and_fetch.md R114). -/

namespace Sys2Proof.Machine

/-- A 32-bit source: bits 31:0 of the register, bits 63:32 ignored (R22). -/
def State.operand32 (s : State) (slot : Nat) (i : Reg) : Half := trunc32 (s.operand slot i)

/-- A rotate count in a register: the whole 64-bit value, as an integer (R91, R93). -/
def State.countReg (s : State) (slot : Nat) (i : Reg) : Nat := (s.operand slot i).toNat

/-- A rotate count in `imm8`, zero-extended (R72, R92, R94). -/
def countImm (imm8 : BitVec 8) : Nat := imm8.toNat

/-- A primitive's end: `x[rd] <- v`, `COND <- OK` (R90). -/
def State.result64 (s : State) (rd : Reg) (v : Word) : State := (s.setX rd v).ok

/-- A 32-bit primitive's end: `x[rd] <- zext_64(v)`, `COND <- OK` (R22, R90). -/
def State.result32 (s : State) (rd : Reg) (v : Half) : State := s.result64 rd (zext64 v)

/-- The message as the engines see it: the memory and the address of the first byte (R13, R33). -/
structure Message where
  mem : Memory
  base : Word
  deriving DecidableEq, Repr

/-- The message the registers describe (R34). -/
def State.msg (s : State) : Message := ⟨s.mem, s.base⟩

/-- `Fetch8(o)` = `MemRead(BASE + o, 1)` (R10, R114). -/
def Message.fetch8 (m : Message) (o : Word) : Byte := memRead8 m.mem (m.base + o)

/-- `Fetch32(o)` = `MemRead(BASE + o, 4)` (R10, R114). -/
def Message.fetch32 (m : Message) (o : Word) : Half := memRead32 m.mem (m.base + o)

/-- `Fetch64(o)` = `MemRead(BASE + o, 8)` (R10, R114). -/
def Message.fetch64 (m : Message) (o : Word) : Word := memRead64 m.mem (m.base + o)

end Sys2Proof.Machine
end

