-- ==== Sys2Proof/Machine/Primitives.lean ====
section
/-! DEFINITION. The constants (spec/00_scope.md R6), the bit-mixing primitives as functions, and the commands that
expose them (spec/40_primitives.md R90 to R103). Every command here completes in its own step, writes only `x[rd]`, sets
`COND <- OK` and raises nothing (R90); all sources are read before `rd` is written. -/

namespace Sys2Proof.Machine

/-- `K0` (R6; G1: from general knowledge, as the spec says). -/
def K0 : Word := 0xc3a5c85c97cb3127
/-- `K1` (R6; G1). -/
def K1 : Word := 0xb492b66fbe98f273
/-- `K2` (R6, printed). -/
def K2 : Word := 0x9ae16a3b2f90404f
/-- `KMUL` (R6, R101, printed). -/
def KMUL : Word := 0x9ddfea08eb382d69
/-- `C1` (R6). -/
def C1 : Half := 0xcc9e2d51
/-- `C2` (R6). -/
def C2 : Half := 0x1b873593
/-- `C3` (R6). -/
def C3 : Half := 0xe6546b64
/-- `M32A` (R6). -/
def M32A : Half := 0x85ebca6b
/-- `M32B` (R6). -/
def M32B : Half := 0xc2b2ae35

/-- `rotr32(v, n)`, `n` any unsigned integer (R91). -/
def rotr32 (v : Half) (n : Nat) : Half :=
  if n % 32 = 0 then v else (v >>> (n % 32)) ||| (v <<< (32 - n % 32))

/-- `rotr64(v, n)`, `n` any unsigned integer (R93). -/
def rotr64 (v : Word) (n : Nat) : Word :=
  if n % 64 = 0 then v else (v >>> (n % 64)) ||| (v <<< (64 - n % 64))

/-- `bswap32(v)` (R95). -/
def bswap32 (v : Half) : Half :=
  v.extractLsb' 0 8 ++ v.extractLsb' 8 8 ++ v.extractLsb' 16 8 ++ v.extractLsb' 24 8

/-- `bswap64(v)` (R96). -/
def bswap64 (v : Word) : Word :=
  v.extractLsb' 0 8 ++ v.extractLsb' 8 8 ++ v.extractLsb' 16 8 ++ v.extractLsb' 24 8 ++
    v.extractLsb' 32 8 ++ v.extractLsb' 40 8 ++ v.extractLsb' 48 8 ++ v.extractLsb' 56 8

/-- `mix32(h)` (R97). -/
def mix32 (h0 : Half) : Half :=
  let h := h0 ^^^ (h0 >>> 16)
  let h := h * M32A
  let h := h ^^^ (h >>> 13)
  let h := h * M32B
  h ^^^ (h >>> 16)

/-- `mix64(v)` (R98). -/
def mix64 (v : Word) : Word := v ^^^ (v >>> 47)

/-- `mur(a, h)` (R99). -/
def mur (a h : Half) : Half :=
  let a := a * C1
  let a := rotr32 a 17
  let a := a * C2
  let h := h ^^^ a
  let h := rotr32 h 19
  h * 5 + C3

/-- `comb(u, v, mul)` (R100). -/
def comb (u v mul : Word) : Word :=
  let a := (u ^^^ v) * mul
  let a := a ^^^ (a >>> 47)
  let b := (v ^^^ a) * mul
  let b := b ^^^ (b >>> 47)
  b * mul

/-- `h128to64(lo, hi)`: the combiner with multiplier `KMUL` (R101; 90_conflicts.md C3). -/
def h128to64 (lo hi : Word) : Word := comb lo hi KMUL

/-- `ROTR32 rd, rs1, rs2` (R91). -/
def execRotr32 (rd rs1 rs2 : Reg) (s : State) : Host.Outcome State Fault Refusal :=
  .next (s.result32 rd (rotr32 (s.operand32 0 rs1) (s.countReg 1 rs2)))

/-- `ROTR32I rd, rs1, imm8` (R92). -/
def execRotr32i (rd rs1 : Reg) (imm8 : BitVec 8) (s : State) : Host.Outcome State Fault Refusal :=
  .next (s.result32 rd (rotr32 (s.operand32 0 rs1) (countImm imm8)))

/-- `ROTR64 rd, rs1, rs2` (R93). -/
def execRotr64 (rd rs1 rs2 : Reg) (s : State) : Host.Outcome State Fault Refusal :=
  .next (s.result64 rd (rotr64 (s.operand 0 rs1) (s.countReg 1 rs2)))

/-- `ROTR64I rd, rs1, imm8` (R94). -/
def execRotr64i (rd rs1 : Reg) (imm8 : BitVec 8) (s : State) : Host.Outcome State Fault Refusal :=
  .next (s.result64 rd (rotr64 (s.operand 0 rs1) (countImm imm8)))

/-- `BSWAP32 rd, rs1` (R95). -/
def execBswap32 (rd rs1 : Reg) (s : State) : Host.Outcome State Fault Refusal :=
  .next (s.result32 rd (bswap32 (s.operand32 0 rs1)))

/-- `BSWAP64 rd, rs1` (R96). -/
def execBswap64 (rd rs1 : Reg) (s : State) : Host.Outcome State Fault Refusal :=
  .next (s.result64 rd (bswap64 (s.operand 0 rs1)))

/-- `MIX32 rd, rs1` (R97). -/
def execMix32 (rd rs1 : Reg) (s : State) : Host.Outcome State Fault Refusal :=
  .next (s.result32 rd (mix32 (s.operand32 0 rs1)))

/-- `MIX64 rd, rs1` (R98). -/
def execMix64 (rd rs1 : Reg) (s : State) : Host.Outcome State Fault Refusal :=
  .next (s.result64 rd (mix64 (s.operand 0 rs1)))

/-- `MUR rd, rs1, rs2`: `rs1` holds `a`, `rs2` holds `h` (R99). -/
def execMur (rd rs1 rs2 : Reg) (s : State) : Host.Outcome State Fault Refusal :=
  .next (s.result32 rd (mur (s.operand32 0 rs1) (s.operand32 1 rs2)))

/-- `H128TO64 rd, rs1, rs2`: `rs1` holds the low word, `rs2` the high word (R101). -/
def execH128to64 (rd rs1 rs2 : Reg) (s : State) : Host.Outcome State Fault Refusal :=
  .next (s.result64 rd (h128to64 (s.operand 0 rs1) (s.operand 1 rs2)))

/-- `COMB rd, rs1, rs2, rs3`: `u`, `v`, `mul` (R100). -/
def execComb (rd rs1 rs2 rs3 : Reg) (s : State) : Host.Outcome State Fault Refusal :=
  .next (s.result64 rd (comb (s.operand 0 rs1) (s.operand 1 rs2) (s.operand 2 rs3)))

end Sys2Proof.Machine
end

