-- ==== Sys2Proof/Machine/WeakPair.lean ====
section
/-! DEFINITION. The weak-pair hash and the message reads (spec/41_weakpair_and_fetch.md R110 to R118): `WEAK`, `WEAKM`,
`LD8`, `LD32`, `LD64`. -/

namespace Sys2Proof.Machine

/-- A weak pair: `first` and `second`, "only the position counts" (R110). -/
structure WeakPair where
  first : Word
  second : Word
  deriving DecidableEq, Repr

/-- `weak(w, x, y, z, a, b)` (R111). -/
def weak (w x y z a b : Word) : WeakPair :=
  let a := a + w
  let b := rotr64 (b + a + z) 21
  let c := a
  let a := a + x + y
  let b := b + rotr64 a 44
  ⟨a + z, b + c⟩

/-- `weakm(o, a, b)`: `weak` of the four consecutive words at offset `o` (R112). -/
def Message.weakm (m : Message) (o a b : Word) : WeakPair :=
  weak (m.fetch64 o) (m.fetch64 (o + 8)) (m.fetch64 (o + 16)) (m.fetch64 (o + 24)) a b

/-- The results of `WEAK` and `WEAKM`: `x[6] <- first; x[7] <- second; COND <- OK` (R23, R111, R113). -/
def State.resultPair (s : State) (p : WeakPair) : State := ((s.setX 6 p.first).setX 7 p.second).ok

/-- `WEAK`: the six sources `x[0]` to `x[5]` are read before either result is written (R23, R111). -/
def execWeak (s : State) : Host.Outcome State Fault Refusal :=
  .next (s.resultPair
    (weak (s.operand 0 0) (s.operand 1 1) (s.operand 2 2) (s.operand 3 3) (s.operand 4 4) (s.operand 5 5)))

/-- `WEAKM rs1`: offset `x[rs1]`, seeds `x[4]`, `x[5]`; `BOUNDS` when the 32 bytes are not all inside the message (R113). -/
def execWeakm (rs1 : Reg) (s : State) : Host.Outcome State Fault Refusal :=
  let o := s.operand 0 rs1
  if s.outOfBounds o 32 then .next (s.raise .bounds)
  else .next (s.resultPair (s.msg.weakm o (s.operand 1 4) (s.operand 2 5)))

/-- `LD8 rd, rs1`: the byte, zero-extended (R115). -/
def execLd8 (rd rs1 : Reg) (s : State) : Host.Outcome State Fault Refusal :=
  let o := s.operand 0 rs1
  if s.outOfBounds o 1 then .next (s.raise .bounds)
  else .next (s.result64 rd ((s.msg.fetch8 o).setWidth 64))

/-- `LD32 rd, rs1`: four bytes, zero-extended (R116). -/
def execLd32 (rd rs1 : Reg) (s : State) : Host.Outcome State Fault Refusal :=
  let o := s.operand 0 rs1
  if s.outOfBounds o 4 then .next (s.raise .bounds)
  else .next (s.result32 rd (s.msg.fetch32 o))

/-- `LD64 rd, rs1` (R117). -/
def execLd64 (rd rs1 : Reg) (s : State) : Host.Outcome State Fault Refusal :=
  let o := s.operand 0 rs1
  if s.outOfBounds o 8 then .next (s.raise .bounds)
  else .next (s.result64 rd (s.msg.fetch64 o))

end Sys2Proof.Machine
end

