-- ==== Sys2Proof/Machine/Hash32.lean ====
section
/-! DEFINITION. The 32-bit engine (spec/42_hash32.md R120 to R128). Buckets, start, loop and finish steps, and the engine as
a function of the message (R128). -/

namespace Sys2Proof.Machine

/-- `ext`: a message byte widened to 32 bits by `BYTE_EXT32` (R121, D10). -/
def extByte (e : ByteExt) (b : Byte) : Half :=
  match e with
  | .sext => b.signExtend 32
  | .zext => b.setWidth 32

/-- The accumulators `(b, c)` after the first `k` bytes (R121). -/
def foldBytes (e : ByteExt) (m : Message) : Nat → Half × Half
  | 0 => (0, 9)
  | k + 1 =>
    let bc := foldBytes e m k
    let b := bc.1 * C1 + extByte e (m.fetch8 (BitVec.ofNat 64 k))
    (b, bc.2 ^^^ b)

/-- `h32_0to4`, `0 <= n <= 4` (R121). -/
def h32_0to4 (e : ByteExt) (m : Message) (n : Word) : Half :=
  let bc := foldBytes e m n.toNat
  mix32 (mur bc.1 (mur (trunc32 n) bc.2))

/-- `h32_5to12`, `5 <= n <= 12` (R122). -/
def h32_5to12 (m : Message) (n : Word) : Half :=
  let a := trunc32 n
  let b := trunc32 n * 5
  let c : Half := 9
  let d := b
  let a := a + m.fetch32 0
  let b := b + m.fetch32 (n - 4)
  let c := c + m.fetch32 ((n >>> 1) &&& 4)
  mix32 (mur c (mur b (mur a d)))

/-- `h32_13to24`, `13 <= n <= 24` (R124). -/
def h32_13to24 (m : Message) (n : Word) : Half :=
  let a := m.fetch32 ((n >>> 1) - 4)
  let b := m.fetch32 4
  let c := m.fetch32 (n - 8)
  let d := m.fetch32 (n >>> 1)
  let e := m.fetch32 0
  let f := m.fetch32 (n - 4)
  let h := trunc32 n
  mix32 (mur f (mur e (mur d (mur c (mur b (mur a h))))))

/-- `rotr32(w * C1, 17) * C2`: the pre-mix `pre` of R123 and of the loop step R125. -/
def pre32 (w : Half) : Half := rotr32 (w * C1) 17 * C2

/-- `rotr32(t, k) * 5 + 0xe6546b64`: `stp` of R123 with `k = 19`, and the same step with the counts of R125, R126. -/
def stp32 (t : Half) (k : Nat) : Half := rotr32 t k * 5 + C3

/-- `permute3` of `(S.f, S.h, S.g)`: `f <- g0`, `h <- f0`, `g <- h0` (R127). -/
def permute3 (w : Work) : Work := { w with f := w.g, h := w.f, g := w.h }

/-- `iters32(n)` (R123, D9). -/
def iters32 (r : IterRule) (n : Word) : Word :=
  match r with
  | .ref => (n - 1) / 20
  | .literal => n / 20

/-- The seeding of the long path, `n >= 25` (R123). -/
def seed32 (m : Message) (n : Word) (w : Work) : Work :=
  let h := trunc32 n
  let g := C1 * trunc32 n
  let f := g
  let a0 := pre32 (m.fetch32 (n - 4))
  let a1 := pre32 (m.fetch32 (n - 8))
  let a2 := pre32 (m.fetch32 (n - 16))
  let a3 := pre32 (m.fetch32 (n - 12))
  let a4 := pre32 (m.fetch32 (n - 20))
  { w with
    h := stp32 (stp32 (h ^^^ a0) 19 ^^^ a2) 19
    g := stp32 (stp32 (g ^^^ a1) 19 ^^^ a3) 19
    f := stp32 (f + a4) 19 }

/-- One 20-byte group at offset `pos` (R125). -/
def round32 (m : Message) (pos : Word) (w : Work) : Work :=
  let a0 := pre32 (m.fetch32 pos)
  let a1 := m.fetch32 (pos + 4)
  let a2 := pre32 (m.fetch32 (pos + 8))
  let a3 := pre32 (m.fetch32 (pos + 12))
  let a4 := m.fetch32 (pos + 16)
  let h := stp32 (w.h ^^^ a0) 18
  let f := rotr32 (w.f + a1) 19 * C1
  let g := stp32 (w.g + a2) 18
  let h := stp32 (h ^^^ (a3 + a1)) 19
  let g := bswap32 (g ^^^ a4) * 5
  let h := bswap32 (h + a4 * 5)
  let f := f + a0
  permute3 { w with f := f, g := g, h := h }

/-- The digest of the finish step (R126). -/
def finish32 (w : Work) : Half :=
  let g := rotr32 w.g 11 * C1
  let g := rotr32 g 17 * C1
  let f := rotr32 w.f 11 * C1
  let f := rotr32 f 17 * C1
  let h := stp32 (w.h + g) 19
  let h := rotr32 h 17 * C1
  let h := stp32 (h + f) 19
  rotr32 h 17 * C1

/-- The start step of the 32-bit engine after the checks of R187 (R120, R123). -/
def start32 (s : State) : State :=
  let n := s.len
  if n.toNat ≤ 4 then s.complete 32 (zext64 (h32_0to4 s.params.byteExt s.msg n)) 0
  else if n.toNat ≤ 12 then s.complete 32 (zext64 (h32_5to12 s.msg n)) 0
  else if n.toNat ≤ 24 then s.complete 32 (zext64 (h32_13to24 s.msg n)) 0
  else s.enterLoop .m32 0 (iters32 s.params.iterRule n) (seed32 s.msg n s.work)

/-- The loop step of mode `M32` when the cancellation check has not fired (R125). -/
def loop32 (s : State) : State := s.advance 20 (round32 s.msg s.pos s.work)

/-- The finish step of mode `M32` (R126). `DIGEST0` is the zero extension of a 32-bit value in every case (R35). -/
def fin32 (s : State) : State :=
  s.deliver 32 (zext64 (trunc32 (s.promised 40 (zext64 (finish32 s.work))))) 0

/-- `k` groups from offset `pos` on, in ascending order (R28, R235). -/
def groups32 (m : Message) (k : Nat) (pos : Word) (w : Work) : Work := groupsOf (round32 m) 20 k pos w

/-- `hash32(message)`, the engine as a function (R128). -/
def hash32 (p : Params) (m : Message) (n : Word) : Half :=
  if n.toNat ≤ 4 then h32_0to4 p.byteExt m n
  else if n.toNat ≤ 12 then h32_5to12 m n
  else if n.toNat ≤ 24 then h32_13to24 m n
  else finish32 (groups32 m (iters32 p.iterRule n).toNat 0 (seed32 m n Work.zero))

end Sys2Proof.Machine
end

