-- ==== Sys2Proof/Machine/Hash64.lean ====
section
/-! DEFINITION. The 64-bit engine (spec/43_hash64.md R140 to R149), with `h64_0to16` and `round64`, which the 128-bit engine
uses too. -/

namespace Sys2Proof.Machine

/-- `h64_0to16(o, k)`: the `k` bytes at offset `o`, `0 <= k <= 16` (R141). -/
def h64_0to16 (m : Message) (o k : Word) : Word :=
  if 8 ≤ k.toNat then
    let mul := K2 + 2 * k
    let a := m.fetch64 o + K2
    let b := m.fetch64 (o + k - 8)
    let c := rotr64 b 37 * mul + a
    let d := (rotr64 a 25 + b) * mul
    comb c d mul
  else if 4 ≤ k.toNat then
    let mul := K2 + 2 * k
    let a := zext64 (m.fetch32 o)
    comb (k + (a <<< 3)) (zext64 (m.fetch32 (o + k - 4))) mul
  else if 1 ≤ k.toNat then
    let a := m.fetch8 o
    let b := m.fetch8 (o + (k >>> 1))
    let c := m.fetch8 (o + k - 1)
    let y : Half := a.setWidth 32 + ((b.setWidth 32 : Half) <<< 8)
    let z : Half := trunc32 k + ((c.setWidth 32 : Half) <<< 2)
    mix64 ((zext64 y * K2) ^^^ (zext64 z * K0)) * K2
  else K2

/-- `h64_17to32`, `17 <= n <= 32` (R142). -/
def h64_17to32 (m : Message) (n : Word) : Word :=
  let mul := K2 + 2 * n
  let a := m.fetch64 0 * K1
  let b := m.fetch64 8
  let c := m.fetch64 (n - 8) * mul
  let d := m.fetch64 (n - 16) * K2
  let u := rotr64 (a + b) 43 + rotr64 c 30 + d
  let v := a + rotr64 (b + K2) 18 + c
  comb u v mul

/-- `h64_33to64`, `33 <= n <= 64` (R143). -/
def h64_33to64 (m : Message) (n : Word) : Word :=
  let mul := K2 + 2 * n
  let a := m.fetch64 0 * K2
  let b := m.fetch64 8
  let c := m.fetch64 (n - 24)
  let d := m.fetch64 (n - 32)
  let e := m.fetch64 16 * K2
  let f := m.fetch64 24 * 9
  let g := m.fetch64 (n - 8)
  let h := m.fetch64 (n - 16) * mul
  let u := rotr64 (a + g) 43 + (rotr64 b 30 + c) * 9
  let v := ((a + g) ^^^ d) + f + 1
  let w := bswap64 ((u + v) * mul) + h
  let x := rotr64 (e + f) 42 + c
  let y := (bswap64 ((v + w) * mul) + g) * mul
  let z := e + f + c
  let a := bswap64 ((x + z) * mul + y) + b
  let b := mix64 ((z + a) * mul + d + h) * mul
  b + x

/-- `iters64(n)` (R145, D9). -/
def iters64 (r : IterRule) (n : Word) : Word :=
  match r with
  | .ref => (n - 1) / 64
  | .literal => n / 64

/-- The seeding of the long path, `n >= 65` (R145). -/
def seed64 (m : Message) (n : Word) (w : Work) : Work :=
  let x := m.fetch64 (n - 40)
  let y := m.fetch64 (n - 16) + m.fetch64 (n - 56)
  let z := h128to64 (m.fetch64 (n - 48) + n) (m.fetch64 (n - 24))
  let pv := m.weakm (n - 64) n z
  let pw := m.weakm (n - 32) (y + K1) x
  let x := x * K1 + m.fetch64 0
  { w with x := x, y := y, z := z, v0 := pv.first, v1 := pv.second, w0 := pw.first, w1 := pw.second }

/-- `round64(o)`: one 64-byte round over the bytes at offsets `o .. o+63`, ending with the swap of `S.x` and `S.z` (R146). -/
def round64 (m : Message) (o : Word) (w : Work) : Work :=
  let x := rotr64 (w.x + w.y + w.v0 + m.fetch64 (o + 8)) 37 * K1
  let y := rotr64 (w.y + w.v1 + m.fetch64 (o + 48)) 42 * K1
  let x := x ^^^ w.w1
  let y := y + w.v0 + m.fetch64 (o + 40)
  let z := rotr64 (w.z + w.w0) 33 * K1
  let pv := m.weakm o (w.v1 * K1) (x + w.w0)
  let pw := m.weakm (o + 32) (z + w.w1) (y + m.fetch64 (o + 16))
  { w with x := z, y := y, z := x, v0 := pv.first, v1 := pv.second, w0 := pw.first, w1 := pw.second }

/-- The digest of the finish step (R148). -/
def finish64 (w : Work) : Word :=
  let p := h128to64 w.v0 w.w0
  let q := h128to64 w.v1 w.w1
  h128to64 (p + mix64 w.y * K1 + w.z) (q + w.x)

/-- The start step of the 64-bit engine after the checks of R187 (R140, R145). -/
def start64 (s : State) : State :=
  let n := s.len
  if n.toNat ≤ 16 then s.complete 64 (h64_0to16 s.msg 0 n) 0
  else if n.toNat ≤ 32 then s.complete 64 (h64_17to32 s.msg n) 0
  else if n.toNat ≤ 64 then s.complete 64 (h64_33to64 s.msg n) 0
  else s.enterLoop .m64 0 (iters64 s.params.iterRule n) (seed64 s.msg n s.work)

/-- The loop step of mode `M64` when the cancellation check has not fired (R147). -/
def loop64 (s : State) : State := s.advance 64 (round64 s.msg s.pos s.work)

/-- The finish step of mode `M64` (R148). -/
def fin64 (s : State) : State := s.deliver 64 (s.promised 40 (finish64 s.work)) 0

/-- `k` groups from offset `pos` on, in ascending order (R147, R235). -/
def groups64 (m : Message) (k : Nat) (pos : Word) (w : Work) : Work := groupsOf (round64 m) 64 k pos w

/-- `hash64(message)`, the engine as a function (R149). -/
def hash64 (p : Params) (m : Message) (n : Word) : Word :=
  if n.toNat ≤ 16 then h64_0to16 m 0 n
  else if n.toNat ≤ 32 then h64_17to32 m n
  else if n.toNat ≤ 64 then h64_33to64 m n
  else finish64 (groups64 m (iters64 p.iterRule n).toNat 0 (seed64 m n Work.zero))

end Sys2Proof.Machine
end

