-- ==== Sys2Proof/Machine/Hash128.lean ====
section
/-! DEFINITION. The 128-bit engine and CityMurmur (spec/44_hash128.md R160 to R173). A digest is a pair `(low, high)`. -/

namespace Sys2Proof.Machine

/-- `cm_final(a, b, c, d)` (R167). -/
def cmFinal (a b c d : Word) : Word × Word :=
  let a' := h128to64 a c
  let b' := h128to64 d b
  (a' ^^^ b', h128to64 b' a')

/-- `cm_short`, body of `0 <= m <= 16` bytes (R163); `k` is the spec's `m`. -/
def cmShort (m : Message) (lo hi soff k : Word) : Word × Word :=
  let a := mix64 (lo * K1) * K1
  let b := hi
  let c := hi * K1 + h64_0to16 m soff k
  let d := mix64 (a + (if 8 ≤ k.toNat then m.fetch64 soff else c))
  cmFinal a b c d

/-- The seeding of CityMurmur, `17 <= m <= 127` (R164). -/
def seedCm (m : Message) (lo hi soff k : Word) (w : Work) : Work :=
  let c := h128to64 (m.fetch64 (soff + k - 8) + K1) lo
  let d := h128to64 (hi + k) (c + m.fetch64 (soff + k - 16))
  { w with a := lo + d, b := hi, c := c, d := d }

/-- `(m - 1) div 16` (R164). -/
def itersCm (k : Word) : Word := (k - 1) / 16

/-- One 16-byte group at offset `pos` (R165). -/
def roundCm (m : Message) (pos : Word) (w : Work) : Work :=
  let a := (w.a ^^^ (mix64 (m.fetch64 pos * K1) * K1)) * K1
  let b := w.b ^^^ a
  let c := (w.c ^^^ (mix64 (m.fetch64 (pos + 8) * K1) * K1)) * K1
  let d := w.d ^^^ c
  { w with a := a, b := b, c := c, d := d }

/-- The digest of the finish step of mode `MCM` (R166). -/
def finishCm (w : Work) : Word × Word := cmFinal w.a w.b w.c w.d

/-- The seeding of the long path, `m >= 128` (R170). -/
def seed128 (m : Message) (lo hi soff k : Word) (w : Work) : Work :=
  let x := lo
  let y := hi
  let z := k * K1
  let v0 := rotr64 (y ^^^ K1) 49 * K1 + m.fetch64 soff
  let v1 := rotr64 v0 42 * K1 + m.fetch64 (soff + 8)
  let w0 := rotr64 (y + z) 35 * K1 + x
  let w1 := rotr64 (x + m.fetch64 (soff + 88)) 53 * K1
  { w with x := x, y := y, z := z, v0 := v0, v1 := v1, w0 := w0, w1 := w1 }

/-- `m div 128`, the same under both values of `ITER_RULE` (R170). -/
def iters128 (k : Word) : Word := k / 128

/-- One 128-byte group at offset `pos`: two 64-byte sub-steps (R171; 90_conflicts.md C7). -/
def round128 (m : Message) (pos : Word) (w : Work) : Work := round64 m (pos + 64) (round64 m pos w)

/-- The finishing mix (R172, first part). -/
def mixFinish128 (w : Work) : Work :=
  { w with
    x := w.x + rotr64 (w.v0 + w.z) 49 * K0
    y := w.y * K0 + rotr64 w.w1 37
    z := w.z * K0 + rotr64 w.w0 27
    w0 := w.w0 * 9
    v0 := w.v0 * K0 }

/-- One 32-byte chunk of the tail walk, at offset `q` (R172, second part). -/
def tailChunk (m : Message) (q : Word) (w : Work) : Work :=
  let y := rotr64 (w.x + w.y) 42 * K0 + w.v1
  let w0 := w.w0 + m.fetch64 (q + 16)
  let x := w.x * K0 + w0
  let z := w.z + w.w1 + m.fetch64 q
  let w1 := w.w1 + w.v0
  let pv := m.weakm q (w.v0 + z) w.v1
  { w with x := x, y := y, z := z, v0 := pv.first * K0, v1 := pv.second, w0 := w0, w1 := w1 }

/-- The first `k` chunks of the tail walk: `t = 32, 64, ...`, `q = POS + rem - t`, last chunk first (R172). -/
def tailWalk (m : Message) (pos rem : Word) : Nat → Work → Work
  | 0, w => w
  | k + 1, w => tailChunk m (pos + rem - 32 * BitVec.ofNat 64 (k + 1)) (tailWalk m pos rem k w)

/-- `ceil(rem / 32)`: how often `while t < rem: t = t + 32` runs (R172). -/
def tailChunks (rem : Word) : Nat := (rem.toNat + 31) / 32

/-- The two halves of the digest from the registers after the walk (R172, third part). -/
def final128 (w : Work) : Word × Word :=
  let x := h128to64 w.x w.v0
  let y := h128to64 (w.y + w.z) w.w0
  (h128to64 (x + w.v1) w.w1 + y, h128to64 (x + w.w1) (y + w.v1))

/-- The digest of the finish step of mode `M128` (R172); `rem = S.mlen mod 128`. -/
def finish128 (m : Message) (pos : Word) (w : Work) : Word × Word :=
  let rem := w.mlen % 128
  final128 (tailWalk m pos rem (tailChunks rem) (mixFinish128 w))

/-- `body128(lo, hi, soff, m)` as the rest of a start step (R162); `k` is the spec's `m`. -/
def body128 (s : State) (lo hi soff k : Word) : State :=
  let w : Work := { s.work with soff := soff, mlen := k }
  if 128 ≤ k.toNat then s.enterLoop .m128 soff (iters128 k) (seed128 s.msg lo hi soff k w)
  else if k.toNat ≤ 16 then s.complete 128 (cmShort s.msg lo hi soff k).1 (cmShort s.msg lo hi soff k).2
  else s.enterLoop .mcm soff (itersCm k) (seedCm s.msg lo hi soff k w)

/-- The start step of `HASH 128` after the checks of R187: the seed (R160). -/
def start128 (s : State) : State :=
  if 16 ≤ s.len.toNat then body128 s (s.msg.fetch64 0) (s.msg.fetch64 8 + K0) 16 (s.len - 16)
  else body128 s K0 K1 0 s.len

/-- The start step of `HASH128S` after the checks of R187: the seed `x[0]`, `x[1]` (R161, R23). -/
def start128s (s : State) : State := body128 s (s.operand 0 0) (s.operand 1 1) 0 s.len

/-- The loop step of mode `M128` when the cancellation check has not fired (R171). -/
def loop128 (s : State) : State := s.advance 128 (round128 s.msg s.pos s.work)

/-- The loop step of mode `MCM` when the cancellation check has not fired (R165). -/
def loopCm (s : State) : State := s.advance 16 (roundCm s.msg s.pos s.work)

/-- The end of a 128-bit finish step: `DIGEST0 <- low ; DIGEST1 <- high ; DV <- 1 ; DW <- 128 ; PHASE <- IDLE`. -/
def deliver128 (s : State) (d : Word × Word) : State :=
  s.deliver 128 (s.promised 40 d.1) (s.promised 41 d.2)

/-- The finish step of mode `M128` (R172). -/
def fin128 (s : State) : State := deliver128 s (finish128 s.msg s.pos s.work)

/-- The finish step of mode `MCM` (R166). -/
def finCm (s : State) : State := deliver128 s (finishCm s.work)

/-- `k` groups of 128 bytes from offset `pos` on (R171, R235). -/
def groups128 (m : Message) (k : Nat) (pos : Word) (w : Work) : Work := groupsOf (round128 m) 128 k pos w

/-- `k` groups of 16 bytes from offset `pos` on (R165, R235). -/
def groupsCm (m : Message) (k : Nat) (pos : Word) (w : Work) : Work := groupsOf (roundCm m) 16 k pos w

/-- The hash of the `k` bytes at offset `soff` under the seed `(lo, hi)`, as a function (R162, R173). -/
def bodyHash128 (m : Message) (lo hi soff k : Word) : Word × Word :=
  let w : Work := { Work.zero with soff := soff, mlen := k }
  if 128 ≤ k.toNat then
    finish128 m (soff + 128 * iters128 k) (groups128 m (iters128 k).toNat soff (seed128 m lo hi soff k w))
  else if k.toNat ≤ 16 then cmShort m lo hi soff k
  else finishCm (groupsCm m (itersCm k).toNat soff (seedCm m lo hi soff k w))

/-- `hash128(message)` (R160, R173). -/
def hash128 (m : Message) (n : Word) : Word × Word :=
  if 16 ≤ n.toNat then bodyHash128 m (m.fetch64 0) (m.fetch64 8 + K0) 16 (n - 16)
  else bodyHash128 m K0 K1 0 n

/-- `hash128s(message, lo, hi)` (R161, R173). -/
def hash128s (m : Message) (n lo hi : Word) : Word × Word := bodyHash128 m lo hi 0 n

end Sys2Proof.Machine
end

