-- ==== Sys2Proof/Machine/Sequencer.lean ====
section
/-! DEFINITION. The steps the sequencer takes by itself while a hash runs (spec/45_system.md R185): loop steps with the
cancellation check (spec/60_exceptions.md R205) and finish steps without one. -/

namespace Sys2Proof.Machine

/-- Consume the group at `POS`, by `MODE` (R185). -/
def consumeGroup (s : State) : State :=
  match s.mode with
  | .m32 => loop32 s
  | .m64 => loop64 s
  | .m128 => loop128 s
  | .mcm => loopCm s

/-- A loop step: "at the beginning of every loop step ..., before any read or register write", `CANCEL` is sampled (R205). -/
def loopStep (s : State) : State :=
  if s.cancel then s.raise .cancelled else consumeGroup s

/-- A finish step, by `MODE`; no cancellation check (R185, R205). -/
def finishStep (s : State) : State :=
  match s.mode with
  | .m32 => fin32 s
  | .m64 => fin64 s
  | .m128 => fin128 s
  | .mcm => finCm s

/-- The sequencer's own step (R185, R188). An idle sequencer "waits for a command" (R220): nothing changes (log entry 12). -/
def sequencerStep (s : State) : State :=
  match s.phase with
  | .idle => s
  | .loop => loopStep s
  | .fin => finishStep s

end Sys2Proof.Machine
end

