-- ==== Sys2Proof/Machine/Bus.lean ====
section
/-! DEFINITION. The host's side (spec/10_state.md R37 to R39, spec/45_system.md R185, R193): the register map, bus reads and
writes, memory writes, the reset input, and which agent moves next. -/

namespace Sys2Proof.Machine

/-- The registers of the map (R38). -/
inductive BusReg where
  | x (i : Reg)
  | cmd
  | status
  | ctrl
  | base
  | len
  | digest0
  | digest1
  deriving DecidableEq, Repr

/-- The register at a byte offset, for an aligned 64-bit access; `none` is outside the interface (R38, R39). -/
def busReg (off width : Nat) : Option BusReg :=
  if width ≠ 64 ∨ off % 8 ≠ 0 then none
  else if h : off / 8 < 16 then some (.x ⟨off / 8, h⟩)
  else if off = 0x80 then some .cmd
  else if off = 0x88 then some .status
  else if off = 0x90 then some .ctrl
  else if off = 0x98 then some .base
  else if off = 0xA0 then some .len
  else if off = 0xA8 then some .digest0
  else if off = 0xB0 then some .digest1
  else none

/-- The value a bus read returns (R38); `CMD` reads zero (R37). -/
def State.busValue (s : State) : BusReg → Word
  | .x i => s.operand 0 i
  | .cmd => 0
  | .status => s.status
  | .ctrl => s.ctrl
  | .base => s.base
  | .len => s.len
  | .digest0 => s.digest0
  | .digest1 => s.digest1

/-- What happens in a turn of the machine, but for the meaning of a command. -/
inductive Turn where
  /-- The sequencer accepts the command word `w` in the state `s` (R186). -/
  | command (w : BitVec 32) (s : State)
  /-- The turn is over. -/
  | done (s : State)
  /-- The host has no such move. -/
  | refuse (r : Refusal)
  deriving DecidableEq, Repr

/-- A write the host may make only while idle. While busy "the bus holds it": it stays the host's next move and the
sequencer takes its step (R193; log entry 12). -/
def State.whenIdle (s : State) (t : Turn) : Turn := if s.busy then .done (sequencerStep s) else t

/-- A bus write of `d` as the head of the host's moves, `rest` being the others (R38, R185, R193). `STATUS`, `DIGEST0` and
`DIGEST1` ignore writes; `CTRL` takes bit 0 at any time; a write of `CMD` presents the word `d[31:0]` (R37). -/
def State.busWrite (s : State) (r : BusReg) (d : Word) (rest : List HostMove) : Turn :=
  let s1 : State := { s with host := rest }
  match r with
  | .x i => s.whenIdle (.done (s1.setX i d))
  | .cmd => s.whenIdle (.command (trunc32 d) s1)
  | .status => .done s1
  | .ctrl => .done { s1 with cancel := d.getLsbD 0 }
  | .base => s.whenIdle (.done { s1 with base := d })
  | .len => s.whenIdle (.done { s1 with len := d })
  | .digest0 => .done s1
  | .digest1 => .done s1

/-- A memory write of the host (R185). While a hash runs, a byte of its window is the host's duty not to write; where it
does, the digest is any value (R60, U5). -/
def State.memWrite (s : State) (addr : Word) (b : Byte) : State :=
  { s with
    mem := s.mem.write addr.toNat b
    dutyBroken := s.dutyBroken || (s.busy && s.inWindow addr) }

/-- The next transition (R185): the host's next move; where it has none, or leaves the turn, the sequencer's. -/
def turn (s : State) : Turn :=
  match s.host with
  | [] => .done (sequencerStep s)
  | .run :: rest => .done (sequencerStep { s with host := rest })
  | .busRead off width :: rest =>
    match busReg off width with
    | none => .refuse .noSuchRegister
    | some r => .done { s.tick with host := rest, busData := s.busValue r }
  | .busWrite off width d :: rest =>
    match busReg off width with
    | none => .refuse .noSuchRegister
    | some r => s.busWrite r d rest
  | .memWrite addr b :: rest => .done ({ s with host := rest }.memWrite addr b)
  | .reset :: rest => .done { s with host := rest }.resetCore

/-- A word that selects no row of the opcode table: `COND <- ILLEGAL_CMD` (R76, R186, R204). -/
def State.illegalCommand (s : State) : State := s.raise .illegalCmd

/-- The host's write of a command word to `CMD` as its next move, the sequencer idle, so that it is accepted (R37, R186). -/
def State.presentCommand (s : State) (w : BitVec 32) : State :=
  { s with phase := .idle, host := .busWrite 0x80 64 (w.setWidth 64) :: s.host }

end Sys2Proof.Machine
end

