-- ==== Sys2Proof/Machine/Hash.lean ====
section
/-! DEFINITION. The commands `HASH imm8` and `HASH128S` (spec/45_system.md R187, spec/44_hash128.md R161). -/

namespace Sys2Proof.Machine

/-- The supported digest widths (R6, R187). -/
def supportedWidth (w : BitVec 8) : Bool := w == 32 || w == 64 || w == 128

/-- Step 5 of R187: the engine the width names. -/
def startHash (w : BitVec 8) (s : State) : State :=
  if w = 32 then start32 s else if w = 64 then start64 s else start128 s

/-- `HASH imm8` (R187). -/
def execHash (imm8 : BitVec 8) (s : State) : Host.Outcome State Fault Refusal :=
  .next (s.acceptHash (supportedWidth imm8) (startHash imm8))

/-- `HASH128S` (R161): never `UNSUPPORTED_WIDTH`. -/
def execHash128s (s : State) : Host.Outcome State Fault Refusal :=
  .next (s.acceptHash true start128s)

end Sys2Proof.Machine
end

