-- ==== Sys2Proof/Machine/System.lean ====
section
/-! DEFINITION. The system commands `NOP` and `SRESET` (spec/45_system.md R190, R191). There are no others (R192). -/

namespace Sys2Proof.Machine

/-- `NOP`: `COND <- OK`, nothing else (R190). -/
def execNop (s : State) : Host.Outcome State Fault Refusal := .next s.ok

/-- `SRESET`: the reset values; it is accepted only while idle (R191), which the command step sees to. -/
def execSreset (s : State) : Host.Outcome State Fault Refusal := .next s.resetCore

end Sys2Proof.Machine
end

