-- ==== Sys2Proof/Machine/Dispatch.lean ====
section
/-! DEFINITION. The command step's dispatch (spec/45_system.md R186): one arm per command. -/

namespace Sys2Proof.Machine

def exec (i : Instr) (s : State) : Host.Outcome State Fault Refusal :=
  match i with
  | .nop => Sys2Proof.Machine.execNop s
  | .sreset => Sys2Proof.Machine.execSreset s
  | .rotr32 rd rs1 rs2 => Sys2Proof.Machine.execRotr32 rd rs1 rs2 s
  | .rotr32i rd rs1 imm8 => Sys2Proof.Machine.execRotr32i rd rs1 imm8 s
  | .rotr64 rd rs1 rs2 => Sys2Proof.Machine.execRotr64 rd rs1 rs2 s
  | .rotr64i rd rs1 imm8 => Sys2Proof.Machine.execRotr64i rd rs1 imm8 s
  | .bswap32 rd rs1 => Sys2Proof.Machine.execBswap32 rd rs1 s
  | .bswap64 rd rs1 => Sys2Proof.Machine.execBswap64 rd rs1 s
  | .mix32 rd rs1 => Sys2Proof.Machine.execMix32 rd rs1 s
  | .mix64 rd rs1 => Sys2Proof.Machine.execMix64 rd rs1 s
  | .mur rd rs1 rs2 => Sys2Proof.Machine.execMur rd rs1 rs2 s
  | .h128to64 rd rs1 rs2 => Sys2Proof.Machine.execH128to64 rd rs1 rs2 s
  | .comb rd rs1 rs2 rs3 => Sys2Proof.Machine.execComb rd rs1 rs2 rs3 s
  | .weak => Sys2Proof.Machine.execWeak s
  | .weakm rs1 => Sys2Proof.Machine.execWeakm rs1 s
  | .ld8 rd rs1 => Sys2Proof.Machine.execLd8 rd rs1 s
  | .ld32 rd rs1 => Sys2Proof.Machine.execLd32 rd rs1 s
  | .ld64 rd rs1 => Sys2Proof.Machine.execLd64 rd rs1 s
  | .hash imm8 => Sys2Proof.Machine.execHash imm8 s
  | .hash128s => Sys2Proof.Machine.execHash128s s

end Sys2Proof.Machine
end

