-- ==== Sys2Proof/Machine/Step.lean ====
section
/-! DEFINITION. One transition of the system (spec/45_system.md R185): the next host move or the sequencer's step; a command
word is decoded and executed (R186). -/

namespace Sys2Proof.Machine

/-- The command step (R186): the row the word selects, or `ILLEGAL_CMD`. -/
def commandStep (w : BitVec 32) (s : State) : Host.Outcome State Fault Refusal :=
  match decode w with
  | some i => exec i s
  | none => .next s.illegalCommand

/-- One transition (R185). -/
def step (s : State) : Host.Outcome State Fault Refusal :=
  match turn s with
  | .command w s' => commandStep w s'
  | .done s' => .next s'
  | .refuse r => .refused r

/-- The state in which the command of `nbits` bits `w` is what the very next step accepts: the host's next move writes it to
`CMD`, and the sequencer is idle (log entry 2). -/
def State.withFetchWord (s : State) (nbits w : Nat) : State :=
  s.presentCommand (BitVec.ofNat 32 (w % 2 ^ nbits))

end Sys2Proof.Machine
end

