-- ==== Sys2Proof/Safety.lean ====
section
/-! DEFINITION. The terms claims are stated in: what a step leaves unchanged, the invariant of the system, when a run is safe,
and the spec's arithmetic written over the natural numbers, apart from the machine's own functions. -/

namespace Sys2Proof

/-- The operand registers a command may write (R23, R24). `SRESET` is apart: it makes all of them unspecified (R191). -/
def Instr.dests : Instr → List Reg
  | .rotr32 rd _ _ => [rd]
  | .rotr32i rd _ _ => [rd]
  | .rotr64 rd _ _ => [rd]
  | .rotr64i rd _ _ => [rd]
  | .bswap32 rd _ => [rd]
  | .bswap64 rd _ => [rd]
  | .mix32 rd _ => [rd]
  | .mix64 rd _ => [rd]
  | .mur rd _ _ => [rd]
  | .h128to64 rd _ _ => [rd]
  | .comb rd _ _ _ => [rd]
  | .weak => [6, 7]
  | .weakm _ => [6, 7]
  | .ld8 rd _ => [rd]
  | .ld32 rd _ => [rd]
  | .ld64 rd _ => [rd]
  | .nop => []
  | .sreset => []
  | .hash _ => []
  | .hash128s => []

/-- The primitive commands of R90 (file 40_primitives.md), by their destination. -/
def Instr.primitiveDest : Instr → Option Reg
  | .rotr32 rd _ _ => some rd
  | .rotr32i rd _ _ => some rd
  | .rotr64 rd _ _ => some rd
  | .rotr64i rd _ _ => some rd
  | .bswap32 rd _ => some rd
  | .bswap64 rd _ => some rd
  | .mix32 rd _ => some rd
  | .mix64 rd _ => some rd
  | .mur rd _ _ => some rd
  | .h128to64 rd _ _ => some rd
  | .comb rd _ _ _ => some rd
  | .weak => none
  | .weakm _ => none
  | .ld8 _ _ => none
  | .ld32 _ _ => none
  | .ld64 _ _ => none
  | .nop => none
  | .sreset => none
  | .hash _ => none
  | .hash128s => none

/-- The commands that read the message at `x[rs1]`, with that register and the number of bytes (R113, R115 to R117, R208). -/
def Instr.messageRead : Instr → Option (Reg × Nat)
  | .weakm rs1 => some (rs1, 32)
  | .ld8 _ rs1 => some (rs1, 1)
  | .ld32 _ rs1 => some (rs1, 4)
  | .ld64 _ rs1 => some (rs1, 8)
  | .nop => none
  | .sreset => none
  | .rotr32 _ _ _ => none
  | .rotr32i _ _ _ => none
  | .rotr64 _ _ _ => none
  | .rotr64i _ _ _ => none
  | .bswap32 _ _ => none
  | .bswap64 _ _ => none
  | .mix32 _ _ => none
  | .mix64 _ _ => none
  | .mur _ _ _ => none
  | .h128to64 _ _ _ => none
  | .comb _ _ _ _ => none
  | .weak => none
  | .hash _ => none
  | .hash128s => none

end Sys2Proof

namespace Sys2Proof.Machine

/-! ## Frames -/

/-- Every byte of the message memory reads as before (R56). -/
def SameMemory (s t : State) : Prop := ∀ a, t.mem.read a = s.mem.read a

/-- Every operand register but those listed keeps its bits, and whether it has been written (R24). -/
def SameOperandsBut (ds : List Reg) (s t : State) : Prop :=
  ∀ i : Reg, i ∉ ds → t.x[i] = s.x[i] ∧ t.written[i] = s.written[i]

/-- The sequencer's and the working registers are unchanged (R90, R118). -/
def SameSequencer (s t : State) : Prop :=
  t.phase = s.phase ∧ t.mode = s.mode ∧ t.pos = s.pos ∧ t.cnt = s.cnt ∧ t.work = s.work

/-- `DIGEST0` and `DIGEST1` are unchanged (R35). -/
def SameDigestBits (s t : State) : Prop := t.digest0 = s.digest0 ∧ t.digest1 = s.digest1

/-- `DV`, `DW` and the digest are unchanged (R31). -/
def SameDigest (s t : State) : Prop := t.dv = s.dv ∧ t.dw = s.dw ∧ SameDigestBits s t

/-- `CANCEL`, `BASE` and `LEN` are unchanged (R32 to R34). -/
def SameControl (s t : State) : Prop := t.cancel = s.cancel ∧ t.base = s.base ∧ t.len = s.len

/-- What the host keeps, and the parameters, are unchanged (R185, R6). -/
def SameHost (s t : State) : Prop := t.host = s.host ∧ t.busData = s.busData ∧ t.params = s.params

/-- What every command leaves unchanged but for its destinations `ds`, `COND`, and, for a hash or a raise, the digest and
the internal registers. -/
def CommandFrame (ds : List Reg) (s t : State) : Prop :=
  SameOperandsBut ds s t ∧ SameControl s t ∧ SameHost s t ∧ SameMemory s t

/-- What a primitive command, a message read or `NOP` leaves unchanged when it raises nothing (R90, R118, R190). -/
def PrimitiveFrame (ds : List Reg) (s t : State) : Prop :=
  CommandFrame ds s t ∧ SameSequencer s t ∧ SameDigest s t ∧ t.dutyBroken = s.dutyBroken

/-- What a raise leaves (R203): the condition's code, an idle sequencer; no operand register, digest register, `BASE`, `LEN` or
`CANCEL` written. `DV` and `DW` are said apart. -/
def Raised (c : Cond) (s t : State) : Prop :=
  t.cond = c ∧ t.phase = .idle ∧ CommandFrame [] s t ∧ SameDigestBits s t

/-- A primitive, or a message read in bounds, wrote `x[rd]` and nothing else but `COND <- OK` (R90). -/
def WroteOnly (rd : Reg) (s t : State) : Prop := t.cond = .ok ∧ t.written[rd] = true ∧ PrimitiveFrame [rd] s t

/-- `WEAK` or `WEAKM` wrote `x[6]` and `x[7]` and nothing else but `COND <- OK` (R23, R111, R113). -/
def WrotePair (s t : State) : Prop :=
  t.cond = .ok ∧ t.written[(6 : Reg)] = true ∧ t.written[(7 : Reg)] = true ∧ PrimitiveFrame [6, 7] s t

/-- The `k` bytes at offset `o` are inside a message that does not wrap (R113, R207, R208). -/
def ReadsInside (s : State) (o : Word) (k : Nat) : Prop :=
  s.base.toNat + s.len.toNat ≤ 2 ^ 64 ∧ o.toNat + k ≤ s.len.toNat

/-- A state a reset or `SRESET` in `s` leaves (R42, R191, R230): the listed registers at zero, no operand register written,
the message memory and the host's part as they were. -/
def AfterReset (s t : State) : Prop :=
  t.phase = .idle ∧ t.mode = .m32 ∧ t.pos = 0 ∧ t.cnt = 0 ∧ t.cond = .ok ∧ t.dv = false ∧ t.dw = 0 ∧ t.cancel = false ∧
    t.base = 0 ∧ t.len = 0 ∧ SameDigestBits { s with digest0 := 0, digest1 := 0 } t ∧
    (∀ i : Reg, t.x[i] = s.x[i] ∧ t.written[i] = false) ∧ SameMemory s t ∧ SameHost s t

/-- The parts of a state that say which steps run, and with what outcome (R194). -/
def SameCourse (s t : State) : Prop :=
  t.phase = s.phase ∧ t.mode = s.mode ∧ t.pos = s.pos ∧ t.cnt = s.cnt ∧ t.cond = s.cond ∧ t.dv = s.dv ∧ t.dw = s.dw

/-- The register map as what a 64-bit read of each offset returns (R38), operand registers apart. -/
def readMap (s : State) : List (Nat × Word) :=
  [(0x80, 0), (0x88, s.status), (0x90, if s.cancel then 1 else 0), (0x98, s.base), (0xA0, s.len), (0xA8, s.digest0),
   (0xB0, s.digest1)]

/-- The offsets writable only while idle (R38, R193). -/
def idleOnly (off : Nat) : Prop := (∃ i : Reg, off = 8 * i.val) ∨ off = 0x80 ∨ off = 0x98 ∨ off = 0xA0

/-- A bus access outside the interface (R39). -/
def outsideMap (off width : Nat) : Prop := width ≠ 64 ∨ off % 8 ≠ 0 ∨ 0xB8 ≤ off

/-! ## The invariant -/

/-- The size of a group (R28). -/
def Mode.group : Mode → Nat
  | .m32 => 20
  | .m64 => 64
  | .m128 => 128
  | .mcm => 16

/-- The offset of the first group of the running hash (R28). -/
def State.loopStart (s : State) : Nat :=
  match s.mode with
  | .m32 => 0
  | .m64 => 0
  | .m128 => s.work.soff.toNat
  | .mcm => s.work.soff.toNat

/-- How often a loop over groups of `g` bytes runs for a length of `n` bytes under `ITER_RULE` (R123, R145, D9). -/
def iterCount (r : IterRule) (n g : Nat) : Nat :=
  match r with
  | .ref => (n - 1) / g
  | .literal => n / g

/-- The iteration count of the running hash (R123, R145, R164, R170). -/
def State.loopCount (s : State) : Nat :=
  match s.mode with
  | .m32 => iterCount s.params.iterRule s.len.toNat 20
  | .m64 => iterCount s.params.iterRule s.len.toNat 64
  | .m128 => s.work.mlen.toNat / 128
  | .mcm => (s.work.mlen.toNat - 1) / 16

/-- The body of a running 128-bit hash (R26): it starts at offset 0 or 16 and ends with the message. -/
def State.bodyIsTail (s : State) : Prop :=
  (s.work.soff = 0 ∨ s.work.soff = 16) ∧ s.work.soff.toNat + s.work.mlen.toNat = s.len.toNat

/-- The message is long enough for the loop that runs (R120, R140, R162). -/
def State.longEnough (s : State) : Prop :=
  match s.mode with
  | .m32 => 25 ≤ s.len.toNat
  | .m64 => 65 ≤ s.len.toNat
  | .m128 => 128 ≤ s.work.mlen.toNat ∧ s.bodyIsTail
  | .mcm => 17 ≤ s.work.mlen.toNat ∧ s.work.mlen.toNat ≤ 127 ∧ s.bodyIsTail

/-- What holds of the system in every state a run from reset reaches. -/
structure State.Inv (s : State) : Prop where
  /-- The message memory is in its canonical form. -/
  memory : s.mem.wf
  /-- "`DV = 1` implies `DW` in {32, 64, 128}" (R31). -/
  width : s.dv = true → s.dw = 32 ∨ s.dw = 64 ∨ s.dw = 128
  /-- `DW` "is set to 0 together with `DV <- 0`" (R31). -/
  noWidth : s.dv = false → s.dw = 0
  /-- A 32-bit digest is zero-extended and has no second word (R35). -/
  digest32 : s.dw = 32 → s.digest0.toNat < 2 ^ 32 ∧ s.digest1 = 0
  /-- A 64-bit digest has no second word (R35). -/
  digest64 : s.dw = 64 → s.digest1 = 0
  /-- While a hash runs `COND` is `OK` (R203), no digest is valid (R31), and the window does not wrap (R207). -/
  running : s.phase ≠ .idle → s.cond = .ok ∧ s.dv = false ∧ s.base.toNat + s.len.toNat ≤ 2 ^ 64
  /-- While a hash runs its message is long enough for the loop. -/
  long : s.phase ≠ .idle → s.longEnough
  /-- `POS` stands after the groups already consumed, "never skipped" (R28). -/
  position : s.phase ≠ .idle → s.pos.toNat + s.mode.group * s.cnt.toNat = s.loopStart + s.mode.group * s.loopCount
  /-- A loop still has iterations to run (R28). -/
  loopLeft : s.phase = .loop → 1 ≤ s.cnt.toNat
  /-- The finish step comes when none is left (R28). -/
  finLeft : s.phase = .fin → s.cnt = 0

/-! ## What a start step plans -/

/-- The loop a 128-bit start step enters for the body of `m` bytes at `soff`: mode, first offset, iteration count; `none`
where the hash completes at once (R162, R164, R170). -/
def bodyPlan (soff m : Nat) : Option (Mode × Nat × Nat) :=
  if 128 ≤ m then some (.m128, soff, m / 128)
  else if m ≤ 16 then none
  else some (.mcm, soff, (m - 1) / 16)

/-- The loop `HASH w` enters for a message of `n` bytes (R120, R123, R140, R145, R160, R162). -/
def hashPlan (w : BitVec 8) (r : IterRule) (n : Nat) : Option (Mode × Nat × Nat) :=
  if w = 32 then (if n ≤ 24 then none else some (.m32, 0, iterCount r n 20))
  else if w = 64 then (if n ≤ 64 then none else some (.m64, 0, iterCount r n 64))
  else if 16 ≤ n then bodyPlan 16 (n - 16)
  else bodyPlan 0 n

/-- How many steps a hash takes after its start step when no cancellation fires: none, or the loop steps and the finish step
(R188). -/
def planSteps : Option (Mode × Nat × Nat) → Nat
  | none => 0
  | some (_, _, c) => c + 1

/-- What the start step of a hash of width `w` leaves, given its plan (R28, R120, R140, R162, R187). -/
def Started (w : BitVec 8) (plan : Option (Mode × Nat × Nat)) (s t : State) : Prop :=
  t.cond = .ok ∧ CommandFrame [] s t ∧
    match plan with
    | none => t.phase = .idle ∧ t.dv = true ∧ t.dw = w
    | some (m, p, c) =>
      t.phase = .loop ∧ t.mode = m ∧ t.pos.toNat = p ∧ t.cnt.toNat = c ∧ 1 ≤ c ∧
        t.dv = false ∧ t.dw = 0 ∧ SameDigestBits s t

/-- `k` steps of the machine. -/
def runs (k : Nat) (s : State) : Host.Outcome State Fault Refusal := Host.Core.run Sys2Proof.core k s

/-- The command `i`, accepted in `s`, and `k` further steps lead to `t`. -/
def CommandThenRuns (i : Instr) (k : Nat) (s t : State) : Prop :=
  ∃ s1, exec i s = .next s1 ∧ runs k s1 = .next t

/-- A hash of width `w` has delivered the digest `(d0, d1)` (R35, R31) and left everything else of the command frame. -/
def Delivered (w : BitVec 8) (d0 d1 : Word) (s t : State) : Prop :=
  t.phase = .idle ∧ t.cond = .ok ∧ t.dv = true ∧ t.dw = w ∧ t.digest0 = d0 ∧ t.digest1 = d1 ∧ CommandFrame [] s t

/-- A safe run: it neither stops nor leaves the invariant for `k` steps. -/
def SafeRun (k : Nat) (s : State) : Prop := ∃ t, runs k s = .next t ∧ t.Inv

/-- A memory that agrees with the state's on the message window (R54). -/
def SameWindow (s : State) (m : Memory) : Prop :=
  ∀ a, s.base.toNat ≤ a → a < s.base.toNat + s.len.toNat → m.read a = s.mem.read a

/-- A host move that leaves a running hash of the state alone (R193, R195): not the reset input, not a cancellation request, not
a write to the message window, not an access outside the register map. -/
def QuietMove (s : State) : HostMove → Prop
  | .run => True
  | .busRead off width => ¬ outsideMap off width
  | .busWrite off width d => ¬ outsideMap off width ∧ (off = 0x90 → d.getLsbD 0 = false)
  | .memWrite a _ => ¬ (s.base.toNat ≤ a.toNat ∧ a.toNat < s.base.toNat + s.len.toNat)
  | .reset => False

/-- A hash of width `w` has delivered the digest `(d0, d1)` (R35, R31) while the host moved: the operand registers, `CANCEL`,
`BASE`, `LEN`, the parameters and the message window are as they were, and some of the host's moves are left. -/
def DeliveredBesideHost (w : BitVec 8) (d0 d1 : Word) (s t : State) : Prop :=
  t.phase = .idle ∧ t.cond = .ok ∧ t.dv = true ∧ t.dw = w ∧ t.digest0 = d0 ∧ t.digest1 = d1 ∧ SameOperandsBut [] s t ∧
    SameControl s t ∧ t.params = s.params ∧ SameWindow s t.mem ∧ ∃ used, s.host = used ++ t.host

/-- `seq(n)` of spec/95_test_vectors.md at address 0: byte `i` has the value `i mod 256`. -/
def seqMessage (n : Nat) : Message :=
  ⟨((List.range n).map fun i => (i, BitVec.ofNat 8 i)).filter fun c => c.2 ≠ Config.unlistedByte, 0⟩

/-! ## The spec's arithmetic over the natural numbers (R8, R102) -/

/-- `rotr_N(v, n)` (R91, R93). -/
def natRotr (bits v n : Nat) : Nat :=
  v / 2 ^ (n % bits) + v % 2 ^ (n % bits) * 2 ^ (bits - n % bits)

/-- `mix32(h)` (R97), each line modulo 2^32. -/
def natMix32 (h0 : Nat) : Nat :=
  let h1 := h0 ^^^ (h0 / 2 ^ 16)
  let h2 := h1 * 0x85ebca6b % 2 ^ 32
  let h3 := h2 ^^^ (h2 / 2 ^ 13)
  let h4 := h3 * 0xc2b2ae35 % 2 ^ 32
  h4 ^^^ (h4 / 2 ^ 16)

/-- `mur(a, h)` (R99), each line modulo 2^32. -/
def natMur (a0 h0 : Nat) : Nat :=
  let a1 := a0 * 0xcc9e2d51 % 2 ^ 32
  let a2 := natRotr 32 a1 17
  let a3 := a2 * 0x1b873593 % 2 ^ 32
  let h1 := natRotr 32 (h0 ^^^ a3) 19
  (h1 * 5 + 0xe6546b64) % 2 ^ 32

/-- `comb(u, v, mul)` (R100), each line modulo 2^64. -/
def natComb (u v mul : Nat) : Nat :=
  let a1 := (u ^^^ v) * mul % 2 ^ 64
  let a2 := a1 ^^^ (a1 / 2 ^ 47)
  let b1 := (v ^^^ a2) * mul % 2 ^ 64
  let b2 := b1 ^^^ (b1 / 2 ^ 47)
  b2 * mul % 2 ^ 64

/-- `weak(w, x, y, z, a, b)` (R111), each line modulo 2^64. -/
def natWeak (w x y z a0 b0 : Nat) : Nat × Nat :=
  let a1 := (a0 + w) % 2 ^ 64
  let b1 := natRotr 64 ((b0 + a1 + z) % 2 ^ 64) 21
  let a2 := (a1 + x + y) % 2 ^ 64
  let b2 := (b1 + natRotr 64 a2 44) % 2 ^ 64
  ((a2 + z) % 2 ^ 64, (b2 + a1) % 2 ^ 64)

/-- `sum over i in 0..n-1 of byte(addr + i) * 2^(8i)` (R51), over natural addresses. -/
def natBytes (m : Memory) (addr : Nat) : Nat → Nat
  | 0 => 0
  | n + 1 => natBytes m addr n + (m.read (addr + n)).toNat * 2 ^ (8 * n)

end Sys2Proof.Machine
end

