-- ==== Sys2Proof/Certificates/Slice0/Obligations.lean ====
section
/-! DEFINITION. The statements for the provers. R<n> are the numbered rules of spec/. -/

open Sys2Proof Sys2Proof.Machine

/-! ## Encoding -/

/-- R70 to R74: decoding an encoded command gives it back, with every operand at every value. -/
def Obligations.DecodeInvertsEncode : Prop :=
  ∀ i : Instr, i.wellFormed = true → decode (encode i) = some i

/-- R71, R76: each word is exactly one command or illegal; a word that decodes is the command's one encoding. -/
def Obligations.EncodeInvertsDecode : Prop :=
  ∀ (w : BitVec 32) (i : Instr), decode w = some i → encode i = w ∧ i.wellFormed = true

/-- R71: the decoder, the must-be-zero fields and the table's masks and matches say the same of every word. -/
def Obligations.WordDecodesExactlyWhenItSelectsARow : Prop :=
  (∀ w, ∀ r ∈ opcodeTable, r.selects w = true ↔ ∃ i, decode w = some i ∧ i.mnemonic = r.mnemonic) ∧
  (∀ w, decode w = none ↔ (fieldsOfWord w).legal = false) ∧
  (∀ w, ∀ r ∈ opcodeTable, ∀ r' ∈ opcodeTable, r.selects w = true → r'.selects w = true → r = r') ∧
  (∀ r ∈ opcodeTable, r.pat = r.pat.extractLsb' 24 8 ++ (0 : BitVec 24) ∧
    (usageOf (r.pat.extractLsb' 24 8)).map Usage.mask = some r.mask)

/-- R75: the encoding examples. -/
def Obligations.EncodingExamplesDecode : Prop :=
  decode 0x13320025 = some (.rotr64i 3 2 37) ∧ decode 0x1A912300 = some (.comb 9 1 2 3) ∧
  decode 0x18546000 = some (.mur 5 4 6) ∧ decode 0x21080000 = some (.weakm 8) ∧
  decode 0x30000040 = some (.hash 64) ∧ decode 0x30000020 = some (.hash 32) ∧ decode 0x30000080 = some (.hash 128) ∧
  decode 0x20000000 = some .weak ∧ decode 0x25100000 = some (.ld32 1 0)

/-! ## The command step -/

/-- R37, R186: the host's write to `CMD`, accepted while idle, runs the command its low 32 bits encode, and the move is used
up. The second clause is the model's choice, log entry 2 (DESIGN CHOICE), and no rule of the spec: `withFetchWord` makes a write
of the word the next host move and sets `PHASE` to idle, on a busy state too, so the next step runs the word. -/
def Obligations.StepRunsTheDecodedCommand : Prop :=
  (∀ (s : State) (d : Word) (rest : List HostMove) (i : Instr), s.phase = .idle →
    s.host = .busWrite 0x80 64 d :: rest → decode (d.extractLsb' 0 32) = some i →
    step s = exec i { s with host := rest }) ∧
  (∀ (s : State) (w : BitVec 32) (i : Instr), decode w = some i →
    step (s.withFetchWord 32 w.toNat) = exec i { s with phase := .idle })

/-- R76, R204: a word that selects no row ends `ILLEGAL_CMD`; `DV`, `DW`, the digest, the operand registers, `CANCEL`, `BASE`,
`LEN` and the memory stay. -/
def Obligations.IllegalWordOnlySetsTheCondition : Prop :=
  ∀ (s : State) (d : Word) (rest : List HostMove), s.phase = .idle → s.host = .busWrite 0x80 64 d :: rest →
    decode (d.extractLsb' 0 32) = none →
    ∃ t, step s = .next t ∧ Raised .illegalCmd { s with host := rest } t ∧ t.dv = s.dv ∧ t.dw = s.dw

/-! ## Bit-mixing primitives -/

/-- R90: a primitive command completes in every state, writes only its `rd`, sets `COND <- OK`, and does not look at
`CANCEL`. -/
def Obligations.PrimitivesWriteOnlyTheirDestination : Prop :=
  ∀ (i : Instr) (rd : Reg) (s : State), i.primitiveDest = some rd →
    ∃ t, exec i s = .next t ∧ WroteOnly rd s t ∧
      ∀ c, exec i { s with cancel := c } = .next { t with cancel := c }

/-- R91, R92: `ROTR32` and `ROTR32I` move bit `(j + count) mod 32` of the low half to bit `j` and clear bits 63:32. -/
def Obligations.RotateRight32MovesBits : Prop :=
  ∀ (rd rs1 : Reg) (s : State),
    (∀ rs2, ∃ t, exec (.rotr32 rd rs1 rs2) s = .next t ∧ WroteOnly rd s t ∧
      ∀ j, t.x[rd].getLsbD j =
        (decide (j < 32) && (s.operand 0 rs1).getLsbD ((j + (s.operand 1 rs2).toNat) % 32))) ∧
    (∀ imm8, ∃ t, exec (.rotr32i rd rs1 imm8) s = .next t ∧ WroteOnly rd s t ∧
      ∀ j, t.x[rd].getLsbD j = (decide (j < 32) && (s.operand 0 rs1).getLsbD ((j + imm8.toNat) % 32)))

/-- R93, R94: `ROTR64` and `ROTR64I` move bit `(j + count) mod 64` to bit `j`. -/
def Obligations.RotateRight64MovesBits : Prop :=
  ∀ (rd rs1 : Reg) (s : State),
    (∀ rs2, ∃ t, exec (.rotr64 rd rs1 rs2) s = .next t ∧ WroteOnly rd s t ∧
      ∀ j < 64, t.x[rd].getLsbD j = (s.operand 0 rs1).getLsbD ((j + (s.operand 1 rs2).toNat) % 64)) ∧
    (∀ imm8, ∃ t, exec (.rotr64i rd rs1 imm8) s = .next t ∧ WroteOnly rd s t ∧
      ∀ j < 64, t.x[rd].getLsbD j = (s.operand 0 rs1).getLsbD ((j + imm8.toNat) % 64))

/-- R95, R96: byte `k` of the result is byte `3 - k` (`7 - k`) of the source; a reversal is its own inverse. -/
def Obligations.ByteReversalReversesBytes : Prop :=
  (∀ (rd rs1 : Reg) (s : State),
    (∃ t, exec (.bswap32 rd rs1) s = .next t ∧ WroteOnly rd s t ∧ t.x[rd].toNat < 2 ^ 32 ∧
      ∀ k < 4, t.x[rd].extractLsb' (8 * k) 8 = (s.operand 0 rs1).extractLsb' (8 * (3 - k)) 8) ∧
    (∃ t, exec (.bswap64 rd rs1) s = .next t ∧ WroteOnly rd s t ∧
      ∀ k < 8, t.x[rd].extractLsb' (8 * k) 8 = (s.operand 0 rs1).extractLsb' (8 * (7 - k)) 8)) ∧
  (∀ v, bswap32 (bswap32 v) = v) ∧ (∀ v, bswap64 (bswap64 v) = v)

/-- R97: `MIX32`, line by line modulo 2^32; `mix32(0) = 0`; a bijection on `u32`; the worked examples. -/
def Obligations.Mix32ComputesAndIsABijection : Prop :=
  (∀ (rd rs1 : Reg) (s : State), ∃ t, exec (.mix32 rd rs1) s = .next t ∧ WroteOnly rd s t ∧
    t.x[rd].toNat = natMix32 ((s.operand 0 rs1).toNat % 2 ^ 32)) ∧
  mix32 0 = 0 ∧ Function.Bijective mix32 ∧
  mix32 1 = 0x514e28b7 ∧ mix32 0xffffffff = 0x81f16f39 ∧ mix32 0x12345678 = 0xe37cd1bc

/-- R98: `MIX64` xors bit `j + 47` into bit `j`; values below 2^47 are unchanged; the worked examples. -/
def Obligations.Mix64FoldsTheTopBits : Prop :=
  (∀ (rd rs1 : Reg) (s : State), ∃ t, exec (.mix64 rd rs1) s = .next t ∧ WroteOnly rd s t ∧
    (∀ j < 64, t.x[rd].getLsbD j = ((s.operand 0 rs1).getLsbD j ^^ (s.operand 0 rs1).getLsbD (j + 47))) ∧
    ((s.operand 0 rs1).toNat < 2 ^ 47 → t.x[rd] = s.operand 0 rs1)) ∧
  mix64 0 = 0 ∧ mix64 0x8000000000000000 = 0x8000000000010000 ∧ mix64 0xffffffffffffffff = 0xfffffffffffe0000 ∧
  mix64 0x0123456789abcdef = 0x0123456789abcfa9

/-- R99: `MUR`, line by line modulo 2^32, on the low halves; the corner cases and worked examples. -/
def Obligations.MurComputesModulo : Prop :=
  (∀ (rd rs1 rs2 : Reg) (s : State), ∃ t, exec (.mur rd rs1 rs2) s = .next t ∧ WroteOnly rd s t ∧
    t.x[rd].toNat = natMur ((s.operand 0 rs1).toNat % 2 ^ 32) ((s.operand 1 rs2).toNat % 2 ^ 32)) ∧
  mur 0 0 = 0xe6546b64 ∧ (∃ a h, mur a h ≠ mur h a) ∧ mur 0 9 = 0xe65a0b64 ∧ mur 1 0 = 0x26cf0576 ∧
  mur 0xffffffff 0xffffffff = 0xb849f5ee ∧ mur 0x12345678 0x9abcdef0 = 0xb459e44d

/-- R100: `COMB`, line by line modulo 2^64; the corner cases and worked examples. -/
def Obligations.CombComputesModulo : Prop :=
  (∀ (rd rs1 rs2 rs3 : Reg) (s : State), ∃ t, exec (.comb rd rs1 rs2 rs3) s = .next t ∧ WroteOnly rd s t ∧
    t.x[rd].toNat = natComb (s.operand 0 rs1).toNat (s.operand 1 rs2).toNat (s.operand 2 rs3).toNat) ∧
  (∀ u v, comb u v 0 = 0) ∧ (∀ mul, comb 0 0 mul = 0) ∧ comb 1 2 1 = 1 ∧
  comb 1 2 0x9ae16a3b2f90405f = 0xff61fec4437fb5ec ∧ comb 1 2 KMUL = 0x86668a560ec835a1 ∧
  comb 2 1 KMUL = 0xd1aa4377fbb56312

/-- R101: `H128TO64` is the combiner with the multiplier 0x9ddfea08eb382d69; the corner cases and worked examples. -/
def Obligations.Hash128To64IsTheCombiner : Prop :=
  (∀ (rd rs1 rs2 : Reg) (s : State), ∃ t, exec (.h128to64 rd rs1 rs2) s = .next t ∧ WroteOnly rd s t ∧
    t.x[rd].toNat = natComb (s.operand 0 rs1).toNat (s.operand 1 rs2).toNat 0x9ddfea08eb382d69) ∧
  h128to64 0 0 = 0 ∧ (∃ u v, h128to64 u v ≠ h128to64 v u) ∧ h128to64 1 2 = 0x86668a560ec835a1 ∧
  h128to64 0xffffffffffffffff 0 = 0x7fd30145028fd3f2 ∧
  h128to64 0x0123456789abcdef 0xfedcba9876543210 = 0x79d79d1de9fa18dd

/-! ## The weak pair and message reads -/

/-- R111: `WEAK`, line by line modulo 2^64, from `x0`..`x5` to `x6`, `x7`; the corner cases and the worked example. -/
def Obligations.WeakComputesThePair : Prop :=
  (∀ s : State, ∃ t, exec .weak s = .next t ∧ WrotePair s t ∧
    (t.x[(6 : Reg)].toNat, t.x[(7 : Reg)].toNat) =
      natWeak (s.operand 0 0).toNat (s.operand 1 1).toNat (s.operand 2 2).toNat (s.operand 3 3).toNat
        (s.operand 4 4).toNat (s.operand 5 5).toNat) ∧
  weak 0 0 0 0 0 0 = ⟨0, 0⟩ ∧ weak 1 2 3 4 5 6 = ⟨0xf, 0x0000800000b00006⟩ ∧
  weak (-1) (-1) (-1) (-1) (-1) (-1) = ⟨0xfffffffffffffffb, 0xffffe7ffffcffffc⟩

/-- R112, R113: `WEAKM` inside the message is the weak pair of the four little-endian words at `BASE + x[rs1]`; otherwise it
raises `BOUNDS` and writes no operand register. -/
def Obligations.WeakmReadsFourWordsOrRaises : Prop :=
  ∀ (rs1 : Reg) (s : State),
    (ReadsInside s (s.operand 0 rs1) 32 → ∃ t, exec (.weakm rs1) s = .next t ∧ WrotePair s t ∧
      (t.x[(6 : Reg)].toNat, t.x[(7 : Reg)].toNat) =
        natWeak (natBytes s.mem (s.base.toNat + (s.operand 0 rs1).toNat) 8)
          (natBytes s.mem (s.base.toNat + (s.operand 0 rs1).toNat + 8) 8)
          (natBytes s.mem (s.base.toNat + (s.operand 0 rs1).toNat + 16) 8)
          (natBytes s.mem (s.base.toNat + (s.operand 0 rs1).toNat + 24) 8)
          (s.operand 1 4).toNat (s.operand 2 5).toNat) ∧
    (¬ ReadsInside s (s.operand 0 rs1) 32 → ∃ t, exec (.weakm rs1) s = .next t ∧ Raised .bounds s t ∧
      t.dv = s.dv ∧ t.dw = s.dw)

/-- R115 to R117: `LD8`, `LD32`, `LD64` inside the message give the little-endian value of the 1, 4, 8 bytes at
`BASE + x[rs1]`, zero-extended (whatever `BYTE_EXT32` is); otherwise they raise `BOUNDS` and `x[rd]` is unchanged. -/
def Obligations.LoadsAssembleLittleEndian : Prop :=
  ∀ (rd rs1 : Reg) (s : State),
    (ReadsInside s (s.operand 0 rs1) 1 → ∃ t, exec (.ld8 rd rs1) s = .next t ∧ WroteOnly rd s t ∧
      t.x[rd].toNat = natBytes s.mem (s.base.toNat + (s.operand 0 rs1).toNat) 1) ∧
    (ReadsInside s (s.operand 0 rs1) 4 → ∃ t, exec (.ld32 rd rs1) s = .next t ∧ WroteOnly rd s t ∧
      t.x[rd].toNat = natBytes s.mem (s.base.toNat + (s.operand 0 rs1).toNat) 4) ∧
    (ReadsInside s (s.operand 0 rs1) 8 → ∃ t, exec (.ld64 rd rs1) s = .next t ∧ WroteOnly rd s t ∧
      t.x[rd].toNat = natBytes s.mem (s.base.toNat + (s.operand 0 rs1).toNat) 8) ∧
    (∀ k i, (k, i) ∈ [(1, Instr.ld8 rd rs1), (4, Instr.ld32 rd rs1), (8, Instr.ld64 rd rs1)] →
      ¬ ReadsInside s (s.operand 0 rs1) k →
      ∃ t, exec i s = .next t ∧ Raised .bounds s t ∧ t.dv = s.dv ∧ t.dw = s.dw)

/-- R208 (and the window form R207 for these commands): a message read whose bytes are not all inside the message raises
`BOUNDS`; no operand register is written, and no memory is read: any other memory gives the same. -/
def Obligations.ReadsOutsideTheMessageRaiseBounds : Prop :=
  ∀ (i : Instr) (rs1 : Reg) (k : Nat) (s : State), i.messageRead = some (rs1, k) →
    ¬ ReadsInside s (s.operand 0 rs1) k →
    ∃ t, exec i s = .next t ∧ Raised .bounds s t ∧ t.dv = s.dv ∧ t.dw = s.dw ∧
      ∀ m, exec i { s with mem := m } = .next { t with mem := m }

/-- R51: reads of 1, 4 and 8 bytes are the sum over the bytes, the byte at the lowest address the least significant, with the
rule's example; and (R52) an 8-byte read is two 4-byte reads. -/
def Obligations.WordReadsAreLittleEndian : Prop :=
  (∀ (m : Memory) (a : Word), (memRead8 m a).toNat = natBytes m a.toNat 1) ∧
  (∀ (m : Memory) (a : Word), a.toNat + 4 ≤ 2 ^ 64 → (memRead32 m a).toNat = natBytes m a.toNat 4) ∧
  (∀ (m : Memory) (a : Word), a.toNat + 8 ≤ 2 ^ 64 → (memRead64 m a).toNat = natBytes m a.toNat 8) ∧
  (∀ (m : Memory) (a : Word), memRead64 m a = memRead32 m (a + 4) ++ memRead32 m a) ∧
  (∀ (m : Memory) (a : Word), memRead8 m a = 0x01 → memRead8 m (a + 1) = 0x02 → memRead8 m (a + 2) = 0x03 →
    memRead8 m (a + 3) = 0x04 → memRead32 m a = 0x04030201)

/-! ## System commands and reset -/

/-- R190: `NOP` sets `COND <- OK` and changes nothing else, whatever `CANCEL` is; after `HASH 7`, in any state, `STATUS` is 0x10,
and `NOP` makes it 0. -/
def Obligations.NopOnlyClearsTheCondition : Prop :=
  (∀ s : State, ∃ t, exec .nop s = .next t ∧ t.cond = .ok ∧ PrimitiveFrame [] s t) ∧
  (∀ s : State, ∃ t u, exec (.hash 7) s = .next t ∧ t.status = 0x10 ∧ exec .nop t = .next u ∧ u.status = 0)

/-- R191, R230: `SRESET`, and the reset input at any time, give the listed registers their reset values, and the operand
registers read as any value. That `SRESET` keeps the operand registers' bits is R191's; that the reset input keeps them is the
model's reading, log entry 6 (DEDUCED, unsafe), and the form of "any value" is log entry 3's. -/
def Obligations.ResetsGiveTheListedValues : Prop :=
  (∀ s : State, ∃ t, exec .sreset s = .next t ∧ AfterReset s t ∧
    ∀ slot i, t.operand slot i = Config.freeWord t.draws slot) ∧
  (∀ (s : State) (rest : List HostMove), s.host = .reset :: rest →
    ∃ t, step s = .next t ∧ AfterReset { s with host := rest } t ∧
      ∀ slot i, t.operand slot i = Config.freeWord t.draws slot)

/-- R42, R231: the values after reset; a read of an operand register is any value; the sequencer waits for a command. The
operand registers' stored bits and the parameters at reset are the model's (log entries 3, 8, 9) and are not stated. -/
def Obligations.ResetStateIsAsListed : Prop :=
  State.reset.phase = .idle ∧ State.reset.mode = .m32 ∧ State.reset.pos = 0 ∧ State.reset.cnt = 0 ∧
  State.reset.cond = .ok ∧ State.reset.dv = false ∧ State.reset.dw = 0 ∧ State.reset.cancel = false ∧
  State.reset.base = 0 ∧ State.reset.len = 0 ∧ State.reset.digest0 = 0 ∧ State.reset.digest1 = 0 ∧
  State.reset.status = 0 ∧ (∀ slot i, State.reset.operand slot i = Config.freeWord State.reset.draws slot) ∧
  step State.reset = .next State.reset

/-! ## The hashes: acceptance -/

/-- R201 (and R187 step 2, R206): a width other than 32, 64, 128 ends `UNSUPPORTED_WIDTH`, whatever `CANCEL` and the window are;
`DV` and `DW` are cleared, the digest bits stay, `STATUS` is 0x10, and no message byte is read; the supported widths and
`HASH128S` never end so. -/
def Obligations.UnsupportedWidthIsRejectedFirst : Prop :=
  (∀ (imm8 : BitVec 8) (s : State), imm8 ≠ 32 → imm8 ≠ 64 → imm8 ≠ 128 →
    ∃ t, exec (.hash imm8) s = .next t ∧ Raised .unsupportedWidth s t ∧ t.dv = false ∧ t.dw = 0 ∧ t.status = 0x10 ∧
      ∀ m, exec (.hash imm8) { s with mem := m } = .next { t with mem := m }) ∧
  (∀ (i : Instr) (s : State), (i = .hash 32 ∨ i = .hash 64 ∨ i = .hash 128 ∨ i = .hash128s) →
    ∃ t, exec i s = .next t ∧ t.cond ≠ .unsupportedWidth)

/-- R187 steps 1 to 4, R202, R205 (a), R206, R207: a hash with a supported width accepted while `CANCEL = 1` ends
`CANCELLED`, also when the window wraps; with `CANCEL = 0` and a window that wraps it ends `BOUNDS`. -/
def Obligations.CancellationThenBoundsAtTheTop : Prop :=
  ∀ (i : Instr) (s : State), (i = .hash 32 ∨ i = .hash 64 ∨ i = .hash 128 ∨ i = .hash128s) →
    (s.cancel = true → ∃ t, exec i s = .next t ∧ Raised .cancelled s t ∧ t.dv = false ∧ t.dw = 0) ∧
    (s.cancel = false → 2 ^ 64 < s.base.toNat + s.len.toNat →
      ∃ t, exec i s = .next t ∧ Raised .bounds s t ∧ t.dv = false ∧ t.dw = 0)

/-- R120, R123, R140, R145, R160 to R164, R170, R187 step 5: with no condition, the start step completes the hash in the short
buckets, and otherwise enters the loop the length and the width name, at the offset and with the count they name. -/
def Obligations.StartStepFollowsTheBuckets : Prop :=
  ∀ s : State, s.cancel = false → s.base.toNat + s.len.toNat ≤ 2 ^ 64 →
    (∀ w : BitVec 8, (w = 32 ∨ w = 64 ∨ w = 128) →
      ∃ t, exec (.hash w) s = .next t ∧ Started w (hashPlan w s.params.iterRule s.len.toNat) s t) ∧
    (∃ t, exec .hash128s s = .next t ∧ Started 128 (bodyPlan 0 s.len.toNat) s t)

/-! ## The hashes: the streaming machine computes the engine's function -/

/-- R128: `HASH 32`, run to its end without a cancellation and without a host move, delivers `hash32` of the message.
`Obligations.HashesRunBesideTheHost` says it of runs with host moves. -/
def Obligations.Hash32RunDeliversTheDigest : Prop :=
  ∀ s : State, s.cancel = false → s.base.toNat + s.len.toNat ≤ 2 ^ 64 → s.host = [] →
    ∃ t, CommandThenRuns (.hash 32) (planSteps (hashPlan 32 s.params.iterRule s.len.toNat)) s t ∧
      Delivered 32 (zext64 (hash32 s.params s.msg s.len)) 0 s t

/-- R149: `HASH 64`, run to its end without a cancellation and without a host move, delivers `hash64` of the message; for the
empty message that is `K2`. `Obligations.HashesRunBesideTheHost` says it of runs with host moves. -/
def Obligations.Hash64RunDeliversTheDigest : Prop :=
  (∀ s : State, s.cancel = false → s.base.toNat + s.len.toNat ≤ 2 ^ 64 → s.host = [] →
    ∃ t, CommandThenRuns (.hash 64) (planSteps (hashPlan 64 s.params.iterRule s.len.toNat)) s t ∧
      Delivered 64 (hash64 s.params s.msg s.len) 0 s t) ∧
  (∀ p m, hash64 p m 0 = 0x9ae16a3b2f90404f)

/-- R173: `HASH 128` and `HASH128S`, run to their end without a cancellation and without a host move, deliver `hash128` of the
message, and `hash128s` of the message under the seed `x0`, `x1`. `Obligations.HashesRunBesideTheHost` says it of runs with
host moves. -/
def Obligations.Hash128RunsDeliverTheDigest : Prop :=
  ∀ s : State, s.cancel = false → s.base.toNat + s.len.toNat ≤ 2 ^ 64 → s.host = [] →
    (∃ t, CommandThenRuns (.hash 128) (planSteps (hashPlan 128 s.params.iterRule s.len.toNat)) s t ∧
      Delivered 128 (hash128 s.msg s.len).1 (hash128 s.msg s.len).2 s t) ∧
    (∃ t, CommandThenRuns .hash128s (planSteps (bodyPlan 0 s.len.toNat)) s t ∧
      Delivered 128 (hash128s s.msg s.len (s.operand 0 0) (s.operand 1 1)).1
        (hash128s s.msg s.len (s.operand 0 0) (s.operand 1 1)).2 s t)

/-- Digests of spec/95_test_vectors.md: of the empty message at each width (R128, R149, R173), of `[00]` and `[80]`, and of
`seq(n)` on each side of a boundary of each engine and under both values of `ITER_RULE`. -/
def Obligations.ListedDigestsAreReproduced : Prop :=
  (∀ p, hash32 p (seqMessage 0) 0 = 0xdc56d17a ∧ hash64 p (seqMessage 0) 0 = 0x9ae16a3b2f90404f ∧
    hash32 p (seqMessage 1) 1 = 0xc0a92754) ∧
  hash128 (seqMessage 0) 0 = (0x3df09dfc64c09a2b, 0x3cb540c392e51e29) ∧
  (∀ r, hash32 ⟨r, .sext⟩ ⟨[(0, 0x80)], 0⟩ 1 = 0x2fc8696b ∧ hash32 ⟨r, .zext⟩ ⟨[(0, 0x80)], 0⟩ 1 = 0xa4e08dff) ∧
  (∀ p, hash32 p (seqMessage 4) 4 = 0x616e1132 ∧ hash32 p (seqMessage 5) 5 = 0xfe6e37d4 ∧
    hash32 p (seqMessage 12) 12 = 0xde42ef1c ∧ hash32 p (seqMessage 13) 13 = 0x8add7404 ∧
    hash32 p (seqMessage 24) 24 = 0x60cf6aa4 ∧ hash32 p (seqMessage 25) 25 = 0x2e6ddf78) ∧
  (∀ e, hash32 ⟨.ref, e⟩ (seqMessage 40) 40 = 0x5042df8c ∧ hash32 ⟨.literal, e⟩ (seqMessage 40) 40 = 0xb0638efc) ∧
  (∀ p, hash64 p (seqMessage 3) 3 = 0x94a13d22e9eba49a ∧ hash64 p (seqMessage 7) 7 = 0xa2e0bff20db0a6a1 ∧
    hash64 p (seqMessage 16) 16 = 0x0efd25a0a34156d4 ∧ hash64 p (seqMessage 17) 17 = 0xbbb6a6f8f20d1f1c ∧
    hash64 p (seqMessage 33) 33 = 0x46e1378cbc22daba ∧ hash64 p (seqMessage 65) 65 = 0xac589c990483dd2e) ∧
  (∀ e, hash64 ⟨.ref, e⟩ (seqMessage 128) 128 = 0x10b153630af1f395 ∧
    hash64 ⟨.literal, e⟩ (seqMessage 128) 128 = 0x524852f8e8f9c4f0) ∧
  hash128 (seqMessage 15) 15 = (0x527464a5d6763187, 0xb06b4aef76dba14b) ∧
  hash128 (seqMessage 33) 33 = (0x000e6231c59d57c9, 0xdd7bc7669361e16e) ∧
  hash128 (seqMessage 177) 177 = (0x64ae3a0f1e7865b6, 0xf60c1ffdc5f20b00) ∧
  hash128s (seqMessage 127) 127 1 2 = (0xb2c48d36d927e4c6, 0xfc42b8576d713ea9)

/-- R161 (relation), of the engine functions: `hash128` of `n >= 16` bytes is `hash128s` of the message without its first 16
bytes, under the seed they give; of fewer bytes it is `hash128s` under `(K0, K1)`. That the commands deliver these functions is
`Obligations.Hash128RunsDeliverTheDigest`. -/
def Obligations.Hash128IsTheSeededHash : Prop :=
  ∀ (m : Message) (n : Word),
    (16 ≤ n.toNat →
      hash128 m n = hash128s { m with base := m.base + 16 } (n - 16) (m.fetch64 0) (m.fetch64 8 + K0)) ∧
    (n.toNat < 16 → hash128 m n = hash128s m n K0 K1)

/-- R188: a hash in its loop with `CNT = c`, `c` at least 1, no cancellation and no host move, is busy for `c` loop steps and
idle with its digest after one finish step more; with a cancellation its next step ends it. -/
def Obligations.EveryHashTerminates : Prop :=
  ∀ s : State, s.phase = .loop → 1 ≤ s.cnt.toNat → s.host = [] →
    (s.cancel = false →
      (∀ j ≤ s.cnt.toNat, ∃ t, runs j s = .next t ∧ t.phase = (if j = s.cnt.toNat then .fin else .loop)) ∧
      (∃ t, runs (s.cnt.toNat + 1) s = .next t ∧ t.phase = .idle ∧ t.dv = true ∧ t.cond = s.cond)) ∧
    (s.cancel = true → ∃ t, runs 1 s = .next t ∧ t.phase = .idle ∧ t.cond = .cancelled)

/-- R188: "`c` is at most `LEN div 16`", in every state that meets the invariant. -/
def Obligations.IterationsLeftAreBounded : Prop :=
  ∀ s : State, s.Inv → s.phase = .loop → s.cnt.toNat ≤ s.len.toNat / 16

/-! ## Cancellation -/

/-- R205 (b), R202, R203, R212: a loop step that sees `CANCEL = 1` ends the hash `CANCELLED` without consuming the group; a
finish step does not look at `CANCEL`. -/
def Obligations.CancellationEndsTheLoopOnly : Prop :=
  (∀ s : State, s.phase = .loop → s.cancel = true → s.host = [] →
    ∃ t, step s = .next t ∧ Raised .cancelled s t ∧ t.dv = s.dv ∧ t.dw = s.dw ∧
      ∀ m, step { s with mem := m } = .next { t with mem := m }) ∧
  (∀ (s : State) (c : Bool), s.phase = .fin → s.host = [] →
    ∃ t, step s = .next t ∧ t.phase = .idle ∧ t.dv = true ∧ step { s with cancel := c } = .next { t with cancel := c })

/-- R212: `CANCEL` changes only by a host write to `CTRL`, by the reset input, or by `SRESET`. -/
def Obligations.CancelIsTheHostsAlone : Prop :=
  ∀ s t : State, step s = .next t →
    t.cancel = s.cancel ∨
    (∃ d rest, s.host = .busWrite 0x90 64 d :: rest ∧ t.cancel = d.getLsbD 0) ∨
    (∃ rest, s.host = .reset :: rest ∧ t.cancel = false) ∨
    (∃ d rest, s.phase = .idle ∧ s.host = .busWrite 0x80 64 d :: rest ∧ decode (d.extractLsb' 0 32) = some .sreset ∧
      t.cancel = false)

/-! ## Memory and what a step depends on -/

/-- R56 (and R50, R6): no command, loop step or finish step writes the message memory, or anything the host keeps; over all
transitions, only a host memory write writes memory, and none writes the parameters. -/
def Obligations.OnlyTheHostWritesMemory : Prop :=
  (∀ (i : Instr) (s : State), ∃ t, exec i s = .next t ∧ t.mem = s.mem ∧ SameHost s t) ∧
  (∀ s : State, s.host = [] → ∃ t, step s = .next t ∧ t.mem = s.mem ∧ SameHost s t) ∧
  (∀ s t : State, step s = .next t →
    t.params = s.params ∧
    (t.mem = s.mem ∨ ∃ a b rest, s.host = .memWrite a b :: rest ∧ t.mem = s.mem.write a.toNat b))

/-- R185 (row "memory write"): it changes that one byte and nothing of CORE. -/
def Obligations.HostMemoryWriteChangesOneByte : Prop :=
  ∀ (s : State) (a : Word) (b : Byte) (rest : List HostMove), s.mem.wf → s.host = .memWrite a b :: rest →
    ∃ t, step s = .next t ∧ t.mem.wf ∧ t.mem.read a.toNat = b ∧ (∀ a', a' ≠ a.toNat → t.mem.read a' = s.mem.read a') ∧
      SameOperandsBut [] s t ∧ SameSequencer s t ∧ SameDigest s t ∧ SameControl s t ∧ t.cond = s.cond ∧ t.host = rest

/-- R54: every message byte a command reads lies in the window: a memory that agrees on the window gives the same step. Every
command completes. -/
def Obligations.CommandsReadOnlyTheWindow : Prop :=
  ∀ (i : Instr) (s : State) (m : Memory), SameWindow s m →
    ∃ t, exec i s = .next t ∧ exec i { s with mem := m } = .next { t with mem := m }

/-- R54: the same of the loop and finish steps, in every state that meets the invariant. -/
def Obligations.LoopAndFinishReadOnlyTheWindow : Prop :=
  ∀ (s : State) (m : Memory), s.Inv → s.host = [] → SameWindow s m →
    ∃ t, step s = .next t ∧ step { s with mem := m } = .next { t with mem := m }

/-- R194: which steps run, and how many, does not depend on the data hashed. -/
def Obligations.CourseIsIndependentOfTheData : Prop :=
  (∀ (i : Instr) (s : State) (m : Memory), ∃ t u, exec i s = .next t ∧ exec i { s with mem := m } = .next u ∧ SameCourse t u) ∧
  (∀ (s : State) (m : Memory), s.host = [] →
    ∃ t u, step s = .next t ∧ step { s with mem := m } = .next u ∧ SameCourse t u)

/-- R60, U5: where the host has written the window of the running hash, the finish step still ends it, and the digest is any
value (zero-extended at width 32, R35). Log entry 10 says how the model gives it. -/
def Obligations.BrokenDutyLeavesTheDigestOpen : Prop :=
  ∀ s : State, s.phase = .fin → s.host = [] → s.dutyBroken = true →
    ∃ t, step s = .next t ∧ t.phase = .idle ∧ t.dv = true ∧ t.cond = s.cond ∧
      (s.mode = .m32 → t.dw = 32 ∧ t.digest0.toNat = (Config.freeWord s.draws 40).toNat % 2 ^ 32 ∧ t.digest1 = 0) ∧
      (s.mode = .m64 → t.dw = 64 ∧ t.digest0 = Config.freeWord s.draws 40 ∧ t.digest1 = 0) ∧
      (s.mode = .m128 ∨ s.mode = .mcm →
        t.dw = 128 ∧ t.digest0 = Config.freeWord s.draws 40 ∧ t.digest1 = Config.freeWord s.draws 41)

/-! ## The host interface -/

/-- R29: `STATUS` as a number, field by field, which is what a read of 0x88 returns; a write to it has no effect. -/
def Obligations.StatusShowsTheState : Prop :=
  (∀ s : State, s.status.toNat =
    (if s.phase = .idle then 0 else 1) + 2 * (if s.dv then 1 else 0) + 16 * s.cond.code.toNat +
      256 * s.phase.code.toNat + 1024 * (if s.phase = .idle then 0 else s.mode.code.toNat) + 65536 * s.dw.toNat) ∧
  (∀ (s : State) (d : Word) (rest : List HostMove), s.host = .busWrite 0x88 64 d :: rest →
    step s = .next { s with host := rest }) ∧
  (∀ (s : State) (rest : List HostMove), s.host = .busRead 0x88 64 :: rest →
    ∃ t, step s = .next t ∧ t.busData = s.status ∧ t.status = s.status)

/-- R36: the byte form of a digest of width `DW` has `DW / 8` bytes; byte `j` is bits `8j+7:8j` of `{DIGEST1, DIGEST0}`; the
rule's example. -/
def Obligations.DigestBytesAreLittleEndian : Prop :=
  (∀ s : State, s.dw.toNat ≤ 128 →
    s.digestBytes.length = s.dw.toNat / 8 ∧
    ∀ j < s.dw.toNat / 8, s.digestBytes[j]? = some ((s.digest1 ++ s.digest0).extractLsb' (8 * j) 8)) ∧
  (∀ s : State, s.dw = 32 → s.digest0 = 0xdc56d17a → s.digestBytes = [0x7a, 0xd1, 0x56, 0xdc])

/-- R38, R37, R32, R185 (row "bus read"), R39: a read returns the register of the map and changes nothing of CORE; an access
outside the map is refused. -/
def Obligations.BusReadsReturnTheRegister : Prop :=
  ∀ (s : State) (rest : List HostMove),
    (∀ off v, (off, v) ∈ readMap s → s.host = .busRead off 64 :: rest →
      step s = .next { s with host := rest, busData := v, draws := s.draws + 1 }) ∧
    (∀ i : Reg, s.host = .busRead (8 * i.val) 64 :: rest →
      step s = .next { s with host := rest, busData := s.operand 0 i, draws := s.draws + 1 }) ∧
    (∀ off width, outsideMap off width → s.host = .busRead off width :: rest → step s = .refused .noSuchRegister) ∧
    (∀ off width d, outsideMap off width → s.host = .busWrite off width d :: rest → step s = .refused .noSuchRegister)

/-- R38, R32, R185: while idle the host's writes of `x[i]`, `BASE` and `LEN` take the 64-bit value; at any time a write of
`CTRL` takes bit 0, and a write of `DIGEST0` or `DIGEST1` has no effect. -/
def Obligations.BusWritesReachTheRegister : Prop :=
  ∀ (s : State) (d : Word) (rest : List HostMove),
    (s.phase = .idle → ∀ i : Reg, s.host = .busWrite (8 * i.val) 64 d :: rest →
      ∃ t, step s = .next t ∧ t.x[i] = d ∧ t.written[i] = true ∧ t.cond = s.cond ∧ t.dutyBroken = s.dutyBroken ∧
        SameSequencer s t ∧ SameDigest s t ∧ CommandFrame [i] { s with host := rest } t) ∧
    (s.phase = .idle → s.host = .busWrite 0x98 64 d :: rest → step s = .next { s with host := rest, base := d }) ∧
    (s.phase = .idle → s.host = .busWrite 0xA0 64 d :: rest → step s = .next { s with host := rest, len := d }) ∧
    (s.host = .busWrite 0x90 64 d :: rest → step s = .next { s with host := rest, cancel := d.getLsbD 0 }) ∧
    (s.host = .busWrite 0xA8 64 d :: rest ∨ s.host = .busWrite 0xB0 64 d :: rest → step s = .next { s with host := rest })

/-- R193: while busy a write of `CMD`, `x[i]`, `BASE` or `LEN` is held: it stays the host's next move, and the step is the
sequencer's own. -/
def Obligations.WritesAreHeldWhileBusy : Prop :=
  ∀ (s : State) (off : Nat) (d : Word) (rest : List HostMove), s.phase ≠ .idle → idleOnly off →
    s.host = .busWrite off 64 d :: rest →
    ∃ t, step s = .next t ∧ t.host = s.host ∧ step { s with host := [] } = .next { t with host := [] }

/-- R24, R23: an operand register changes only by a host write to it while idle, by a command that names it as a destination, or
by a reset. That `SRESET` keeps its bits is R191's; that the reset input keeps them is the model's reading, log entry 6
(DEDUCED, unsafe): R230 leaves the register unspecified. That it then counts as unwritten is the model's form of
"unspecified" (log entry 3). -/
def Obligations.OperandRegistersChangeOnlyAsListed : Prop :=
  ∀ (s t : State) (i : Reg), step s = .next t →
    (t.x[i] = s.x[i] ∧ t.written[i] = s.written[i]) ∨
    (∃ d rest, s.phase = .idle ∧ s.host = .busWrite (8 * i.val) 64 d :: rest ∧ t.x[i] = d ∧ t.written[i] = true) ∨
    (∃ d rest c, s.phase = .idle ∧ s.host = .busWrite 0x80 64 d :: rest ∧ decode (d.extractLsb' 0 32) = some c ∧
      (i ∈ c.dests ∨ c = .sreset ∧ t.x[i] = s.x[i] ∧ t.written[i] = false)) ∨
    (∃ rest, s.host = .reset :: rest ∧ t.x[i] = s.x[i] ∧ t.written[i] = false)

/-- R39, R185, R188: a step answers a next state, unless the host's next move is a bus access outside the map. -/
def Obligations.OnlyReservedAccessesAreRefused : Prop :=
  ∀ s : State, (∃ t, step s = .next t) ∨
    ∃ off width rest, outsideMap off width ∧
      (s.host = .busRead off width :: rest ∨ ∃ d, s.host = .busWrite off width d :: rest) ∧
      step s = .refused .noSuchRegister

/-! ## The invariant -/

/-- Every step keeps the invariant: the memory's canonical form, `DV` and `DW` as R31 says, the digest's shape (R35), `COND` and
`DV` while busy (R203, R31), the window (R207), and `POS` and `CNT` in step with the groups consumed (R28). -/
def Obligations.EveryStepKeepsTheInvariant : Prop :=
  ∀ s t : State, s.Inv → step s = .next t → t.Inv

/-- The invariant holds right after reset, whatever the parameters. -/
def Obligations.ResetMeetsTheInvariant : Prop :=
  (∀ p, (State.resetOf p).Inv) ∧ State.reset.Inv

/-- R28, R207: in every state that meets the invariant, `POS + group size <= LEN` before every loop step, and the step moves
`POS` by the group without wrapping. -/
def Obligations.GroupsLieInsideTheMessage : Prop :=
  ∀ s : State, s.Inv → s.phase = .loop → s.cancel = false → s.host = [] →
    s.pos.toNat + s.mode.group ≤ s.len.toNat ∧
    ∃ t, step s = .next t ∧ t.pos.toNat = s.pos.toNat + s.mode.group ∧ t.cnt.toNat + 1 = s.cnt.toNat ∧
      (t.phase = if s.cnt.toNat = 1 then .fin else .loop) ∧ t.mode = s.mode ∧ t.cond = s.cond ∧ SameDigest s t ∧
      CommandFrame [] s t

/-! ## Hashes beside a host that moves -/

/-- R185, R193, R195, R234: a hash that runs while the host makes moves that leave it alone (`QuietMove`: it reads registers, lets
writes be held, writes `CTRL` with bit 0 clear, writes memory outside the window, or leaves the turn) delivers the digest of the
message as it stood at the command, at the latest when every such move and the hash's own steps have been taken. -/
def Obligations.HashesRunBesideTheHost : Prop :=
  ∀ s : State, s.cancel = false → s.base.toNat + s.len.toNat ≤ 2 ^ 64 → (∀ mv ∈ s.host, QuietMove s mv) →
    (∃ k t, k ≤ planSteps (hashPlan 32 s.params.iterRule s.len.toNat) + s.host.length ∧ CommandThenRuns (.hash 32) k s t ∧
      DeliveredBesideHost 32 (zext64 (hash32 s.params s.msg s.len)) 0 s t) ∧
    (∃ k t, k ≤ planSteps (hashPlan 64 s.params.iterRule s.len.toNat) + s.host.length ∧ CommandThenRuns (.hash 64) k s t ∧
      DeliveredBesideHost 64 (hash64 s.params s.msg s.len) 0 s t) ∧
    (∃ k t, k ≤ planSteps (hashPlan 128 s.params.iterRule s.len.toNat) + s.host.length ∧ CommandThenRuns (.hash 128) k s t ∧
      DeliveredBesideHost 128 (hash128 s.msg s.len).1 (hash128 s.msg s.len).2 s t) ∧
    (∃ k t, k ≤ planSteps (bodyPlan 0 s.len.toNat) + s.host.length ∧ CommandThenRuns .hash128s k s t ∧
      DeliveredBesideHost 128 (hash128s s.msg s.len (s.operand 0 0) (s.operand 1 1)).1
        (hash128s s.msg s.len (s.operand 0 0) (s.operand 1 1)).2 s t)
end

