-- ==== Sys2Proof/Laws/Decode.lean ====
section
/-! SUPPORT. The fields of a command word put together are read back, and any word is put together from its fields. -/

namespace Sys2Proof

theorem toNat_append_eq {n m : Nat} (x : BitVec n) (y : BitVec m) : (x ++ y).toNat = x.toNat * 2 ^ m + y.toNat := by
  rw [BitVec.toNat_append, ← Nat.shiftLeft_add_eq_or_of_lt y.isLt, Nat.shiftLeft_eq]

/-- The command word as a number (R70). -/
theorem commandWord_toNat (op : BitVec 8) (rd rs1 rs2 rs3 : Reg) (imm8 : BitVec 8) :
    (commandWord op rd rs1 rs2 rs3 imm8).toNat =
      op.toNat * 2 ^ 24 + rd.val * 2 ^ 20 + rs1.val * 2 ^ 16 + rs2.val * 2 ^ 12 + rs3.val * 2 ^ 8 + imm8.toNat := by
  have h : (commandWord op rd rs1 rs2 rs3 imm8).toNat =
      (op ++ regBits rd ++ regBits rs1 ++ regBits rs2 ++ regBits rs3 ++ imm8).toNat := rfl
  rw [h, toNat_append_eq, toNat_append_eq, toNat_append_eq, toNat_append_eq, toNat_append_eq]
  simp only [regBits, BitVec.toNat_ofFin]
  omega

theorem opField_toNat (w : BitVec 32) : (opField w).toNat = w.toNat / 2 ^ 24 % 2 ^ 8 := by
  simp [opField, BitVec.extractLsb'_toNat, Nat.shiftRight_eq_div_pow]

theorem immField_toNat (w : BitVec 32) : (immField w).toNat = w.toNat % 2 ^ 8 := by
  simp [immField, BitVec.extractLsb'_toNat]

theorem regField_val (w : BitVec 32) (lo : Nat) : (regField w lo).val = w.toNat / 2 ^ lo % 2 ^ 4 := by
  have : (regField w lo).val = (w.extractLsb' lo 4).toNat := rfl
  rw [this, BitVec.extractLsb'_toNat, Nat.shiftRight_eq_div_pow]

theorem opField_commandWord (op : BitVec 8) (rd rs1 rs2 rs3 : Reg) (imm8 : BitVec 8) :
    opField (commandWord op rd rs1 rs2 rs3 imm8) = op :=
  BitVec.eq_of_toNat_eq (by rw [opField_toNat, commandWord_toNat]; omega)

theorem rdField_commandWord (op : BitVec 8) (rd rs1 rs2 rs3 : Reg) (imm8 : BitVec 8) :
    rdField (commandWord op rd rs1 rs2 rs3 imm8) = rd :=
  Fin.ext (by rw [rdField, regField_val, commandWord_toNat]; omega)

theorem rs1Field_commandWord (op : BitVec 8) (rd rs1 rs2 rs3 : Reg) (imm8 : BitVec 8) :
    rs1Field (commandWord op rd rs1 rs2 rs3 imm8) = rs1 :=
  Fin.ext (by rw [rs1Field, regField_val, commandWord_toNat]; omega)

theorem rs2Field_commandWord (op : BitVec 8) (rd rs1 rs2 rs3 : Reg) (imm8 : BitVec 8) :
    rs2Field (commandWord op rd rs1 rs2 rs3 imm8) = rs2 :=
  Fin.ext (by rw [rs2Field, regField_val, commandWord_toNat]; omega)

theorem rs3Field_commandWord (op : BitVec 8) (rd rs1 rs2 rs3 : Reg) (imm8 : BitVec 8) :
    rs3Field (commandWord op rd rs1 rs2 rs3 imm8) = rs3 :=
  Fin.ext (by rw [rs3Field, regField_val, commandWord_toNat]; omega)

theorem immField_commandWord (op : BitVec 8) (rd rs1 rs2 rs3 : Reg) (imm8 : BitVec 8) :
    immField (commandWord op rd rs1 rs2 rs3 imm8) = imm8 :=
  BitVec.eq_of_toNat_eq (by rw [immField_toNat, commandWord_toNat]; omega)

/-- Every word is the command word of its own fields (R70). -/
theorem commandWord_fields (w : BitVec 32) :
    commandWord (opField w) (rdField w) (rs1Field w) (rs2Field w) (rs3Field w) (immField w) = w := by
  apply BitVec.eq_of_toNat_eq
  rw [commandWord_toNat, opField_toNat, immField_toNat, rdField, rs1Field, rs2Field, rs3Field, regField_val, regField_val,
    regField_val, regField_val]
  have := w.isLt
  omega

end Sys2Proof
end

