-- ==== Sys2Proof/Laws/Memory.lean ====
section
/-! SUPPORT. The laws of the message memory: the canonical form is kept, a read after a write gives the value written, and
a write leaves every other byte alone. -/

namespace Sys2Proof.Machine

@[simp] theorem Memory.read_nil (a : Nat) : Memory.read [] a = Config.unlistedByte := rfl

theorem Memory.read_cons (k : Nat) (b : Byte) (m : Memory) (a : Nat) :
    Memory.read ((k, b) :: m) a = if k = a then b else Memory.read m a := rfl

theorem Memory.wf_nil : Memory.wf [] := ⟨List.Pairwise.nil, fun _ h => nomatch h⟩

theorem Memory.wf_tail {c : Host.Cell} {m : Memory} (h : Memory.wf (c :: m)) : Memory.wf m :=
  ⟨(List.pairwise_cons.mp h.1).2, fun p hp => h.2 p (List.mem_cons_of_mem _ hp)⟩

/-- An address below every listed one reads as unlisted. -/
theorem Memory.read_of_lt (m : Memory) (a : Nat) (h : ∀ p ∈ m, a < p.1) : m.read a = Config.unlistedByte := by
  induction m with
  | nil => rfl
  | cons c m ih =>
    have hc := h c (List.mem_cons_self ..)
    rw [show c :: m = (c.1, c.2) :: m from rfl, Memory.read_cons, if_neg (by omega)]
    exact ih fun p hp => h p (List.mem_cons_of_mem _ hp)

/-- Every cell after a write is the written one or an old one. -/
theorem Memory.mem_write {m : Memory} {a : Nat} {v : Byte} {p : Host.Cell} (h : p ∈ m.write a v) :
    p = (a, v) ∧ v ≠ Config.unlistedByte ∨ p ∈ m := by
  induction m with
  | nil =>
    unfold Memory.write at h
    split at h <;> simp_all
  | cons c m ih =>
    obtain ⟨k, b⟩ := c
    unfold Memory.write at h
    split at h
    · split at h <;> simp_all
    · split at h
      · split at h
        · exact .inr (List.mem_cons_of_mem _ h)
        · next hv =>
          rcases List.mem_cons.mp h with rfl | h
          · exact .inl ⟨rfl, hv⟩
          · exact .inr (List.mem_cons_of_mem _ h)
      · rcases List.mem_cons.mp h with h | h
        · exact .inr (h ▸ List.mem_cons_self ..)
        · exact (ih h).imp_right (List.mem_cons_of_mem _)

/-- A write keeps the canonical form. -/
theorem Memory.wf_write {m : Memory} (h : m.wf) {a : Nat} (ha : a < 2 ^ 64) (v : Byte) : (m.write a v).wf := by
  refine ⟨?_, fun p hp => ?_⟩
  · induction m with
    | nil =>
      unfold Memory.write
      split <;> simp
    | cons c m ih =>
      obtain ⟨k, b⟩ := c
      have hk := (List.pairwise_cons.mp h.1).1
      have hm := (List.pairwise_cons.mp h.1).2
      unfold Memory.write
      split
      · split
        · exact h.1
        · refine List.pairwise_cons.mpr ⟨fun p hp => ?_, h.1⟩
          rcases List.mem_cons.mp hp with rfl | hp
          · assumption
          · have := hk p hp; dsimp only at *; omega
      · split
        · split
          · exact hm
          · subst_vars
            exact List.pairwise_cons.mpr ⟨hk, hm⟩
        · refine List.pairwise_cons.mpr ⟨fun p hp => ?_, ih (Memory.wf_tail h)⟩
          rcases Memory.mem_write hp with ⟨rfl, -⟩ | hp
          · dsimp only at *; omega
          · exact hk p hp
  · rcases Memory.mem_write hp with ⟨rfl, hv⟩ | hp
    · exact ⟨ha, hv⟩
    · exact h.2 p hp

/-- A read after a write to the same address gives the value written. -/
theorem Memory.read_write_same {m : Memory} (h : m.wf) (a : Nat) (v : Byte) : (m.write a v).read a = v := by
  induction m with
  | nil =>
    unfold Memory.write
    split <;> simp_all [Memory.read_cons]
  | cons c m ih =>
    obtain ⟨k, b⟩ := c
    have hk := (List.pairwise_cons.mp h.1).1
    unfold Memory.write
    split
    · split
      · next hlt hv =>
        rw [Memory.read_of_lt _ _ fun p hp => ?_, hv]
        rcases List.mem_cons.mp hp with rfl | hp
        · exact hlt
        · have := hk p hp; dsimp only at *; omega
      · simp [Memory.read_cons]
    · split
      · split
        · next hv =>
          subst_vars
          exact Memory.read_of_lt _ _ hk
        · simp [Memory.read_cons]
      · next hne => rw [Memory.read_cons, if_neg (Ne.symm hne), ih (Memory.wf_tail h)]

/-- A write leaves every other address alone. -/
theorem Memory.read_write_other (m : Memory) {a a' : Nat} (v : Byte) (h : a' ≠ a) :
    (m.write a v).read a' = m.read a' := by
  induction m with
  | nil =>
    unfold Memory.write
    split
    · rfl
    · simp [Memory.read_cons, Ne.symm h]
  | cons c m ih =>
    obtain ⟨k, b⟩ := c
    unfold Memory.write
    split
    · split
      · rfl
      · rw [Memory.read_cons, if_neg (Ne.symm h)]
    · split
      · next hk =>
        split
        · rw [Memory.read_cons, if_neg (hk ▸ Ne.symm h)]
        · rw [Memory.read_cons, Memory.read_cons, if_neg (Ne.symm h), if_neg (hk ▸ Ne.symm h)]
      · rw [Memory.read_cons, Memory.read_cons, ih]

end Sys2Proof.Machine
end

