-- ==== Sys2Proof/Laws/State.lean ====
section
/-! SUPPORT. One lemma per field per update of State, so that no proof unfolds an update. -/

namespace Sys2Proof.Machine

/-! ### `State.tick` -/

@[simp] theorem State.tick_x (s : State) : s.tick.x = s.x := rfl
@[simp] theorem State.tick_written (s : State) : s.tick.written = s.written := rfl
@[simp] theorem State.tick_work (s : State) : s.tick.work = s.work := rfl
@[simp] theorem State.tick_phase (s : State) : s.tick.phase = s.phase := rfl
@[simp] theorem State.tick_mode (s : State) : s.tick.mode = s.mode := rfl
@[simp] theorem State.tick_pos (s : State) : s.tick.pos = s.pos := rfl
@[simp] theorem State.tick_cnt (s : State) : s.tick.cnt = s.cnt := rfl
@[simp] theorem State.tick_cond (s : State) : s.tick.cond = s.cond := rfl
@[simp] theorem State.tick_dv (s : State) : s.tick.dv = s.dv := rfl
@[simp] theorem State.tick_dw (s : State) : s.tick.dw = s.dw := rfl
@[simp] theorem State.tick_cancel (s : State) : s.tick.cancel = s.cancel := rfl
@[simp] theorem State.tick_base (s : State) : s.tick.base = s.base := rfl
@[simp] theorem State.tick_len (s : State) : s.tick.len = s.len := rfl
@[simp] theorem State.tick_digest0 (s : State) : s.tick.digest0 = s.digest0 := rfl
@[simp] theorem State.tick_digest1 (s : State) : s.tick.digest1 = s.digest1 := rfl
@[simp] theorem State.tick_mem (s : State) : s.tick.mem = s.mem := rfl
@[simp] theorem State.tick_params (s : State) : s.tick.params = s.params := rfl
@[simp] theorem State.tick_draws (s : State) : s.tick.draws = s.draws + 1 := rfl
@[simp] theorem State.tick_dutyBroken (s : State) : s.tick.dutyBroken = s.dutyBroken := rfl
@[simp] theorem State.tick_host (s : State) : s.tick.host = s.host := rfl
@[simp] theorem State.tick_busData (s : State) : s.tick.busData = s.busData := rfl

/-! ### `State.ok` -/

@[simp] theorem State.ok_x (s : State) : s.ok.x = s.x := rfl
@[simp] theorem State.ok_written (s : State) : s.ok.written = s.written := rfl
@[simp] theorem State.ok_work (s : State) : s.ok.work = s.work := rfl
@[simp] theorem State.ok_phase (s : State) : s.ok.phase = s.phase := rfl
@[simp] theorem State.ok_mode (s : State) : s.ok.mode = s.mode := rfl
@[simp] theorem State.ok_pos (s : State) : s.ok.pos = s.pos := rfl
@[simp] theorem State.ok_cnt (s : State) : s.ok.cnt = s.cnt := rfl
@[simp] theorem State.ok_cond (s : State) : s.ok.cond = .ok := rfl
@[simp] theorem State.ok_dv (s : State) : s.ok.dv = s.dv := rfl
@[simp] theorem State.ok_dw (s : State) : s.ok.dw = s.dw := rfl
@[simp] theorem State.ok_cancel (s : State) : s.ok.cancel = s.cancel := rfl
@[simp] theorem State.ok_base (s : State) : s.ok.base = s.base := rfl
@[simp] theorem State.ok_len (s : State) : s.ok.len = s.len := rfl
@[simp] theorem State.ok_digest0 (s : State) : s.ok.digest0 = s.digest0 := rfl
@[simp] theorem State.ok_digest1 (s : State) : s.ok.digest1 = s.digest1 := rfl
@[simp] theorem State.ok_mem (s : State) : s.ok.mem = s.mem := rfl
@[simp] theorem State.ok_params (s : State) : s.ok.params = s.params := rfl
@[simp] theorem State.ok_draws (s : State) : s.ok.draws = s.draws + 1 := rfl
@[simp] theorem State.ok_dutyBroken (s : State) : s.ok.dutyBroken = s.dutyBroken := rfl
@[simp] theorem State.ok_host (s : State) : s.ok.host = s.host := rfl
@[simp] theorem State.ok_busData (s : State) : s.ok.busData = s.busData := rfl

/-! ### `State.setX` -/

@[simp] theorem State.setX_x (s : State) (i : Reg) (v : Word) : (s.setX i v).x = s.x.set i v := rfl
@[simp] theorem State.setX_written (s : State) (i : Reg) (v : Word) : (s.setX i v).written = s.written.set i true := rfl
@[simp] theorem State.setX_work (s : State) (i : Reg) (v : Word) : (s.setX i v).work = s.work := rfl
@[simp] theorem State.setX_phase (s : State) (i : Reg) (v : Word) : (s.setX i v).phase = s.phase := rfl
@[simp] theorem State.setX_mode (s : State) (i : Reg) (v : Word) : (s.setX i v).mode = s.mode := rfl
@[simp] theorem State.setX_pos (s : State) (i : Reg) (v : Word) : (s.setX i v).pos = s.pos := rfl
@[simp] theorem State.setX_cnt (s : State) (i : Reg) (v : Word) : (s.setX i v).cnt = s.cnt := rfl
@[simp] theorem State.setX_cond (s : State) (i : Reg) (v : Word) : (s.setX i v).cond = s.cond := rfl
@[simp] theorem State.setX_dv (s : State) (i : Reg) (v : Word) : (s.setX i v).dv = s.dv := rfl
@[simp] theorem State.setX_dw (s : State) (i : Reg) (v : Word) : (s.setX i v).dw = s.dw := rfl
@[simp] theorem State.setX_cancel (s : State) (i : Reg) (v : Word) : (s.setX i v).cancel = s.cancel := rfl
@[simp] theorem State.setX_base (s : State) (i : Reg) (v : Word) : (s.setX i v).base = s.base := rfl
@[simp] theorem State.setX_len (s : State) (i : Reg) (v : Word) : (s.setX i v).len = s.len := rfl
@[simp] theorem State.setX_digest0 (s : State) (i : Reg) (v : Word) : (s.setX i v).digest0 = s.digest0 := rfl
@[simp] theorem State.setX_digest1 (s : State) (i : Reg) (v : Word) : (s.setX i v).digest1 = s.digest1 := rfl
@[simp] theorem State.setX_mem (s : State) (i : Reg) (v : Word) : (s.setX i v).mem = s.mem := rfl
@[simp] theorem State.setX_params (s : State) (i : Reg) (v : Word) : (s.setX i v).params = s.params := rfl
@[simp] theorem State.setX_draws (s : State) (i : Reg) (v : Word) : (s.setX i v).draws = s.draws := rfl
@[simp] theorem State.setX_dutyBroken (s : State) (i : Reg) (v : Word) : (s.setX i v).dutyBroken = s.dutyBroken := rfl
@[simp] theorem State.setX_host (s : State) (i : Reg) (v : Word) : (s.setX i v).host = s.host := rfl
@[simp] theorem State.setX_busData (s : State) (i : Reg) (v : Word) : (s.setX i v).busData = s.busData := rfl

/-! ### `State.release` -/

@[simp] theorem State.release_x (s : State) : s.release.x = s.x := rfl
@[simp] theorem State.release_written (s : State) : s.release.written = s.written := rfl
@[simp] theorem State.release_work (s : State) : s.release.work = freeWork s.draws := rfl
@[simp] theorem State.release_phase (s : State) : s.release.phase = .idle := rfl
@[simp] theorem State.release_mode (s : State) : s.release.mode = freeMode s.draws := rfl
@[simp] theorem State.release_pos (s : State) : s.release.pos = Config.freeWord s.draws 33 := rfl
@[simp] theorem State.release_cnt (s : State) : s.release.cnt = Config.freeWord s.draws 34 := rfl
@[simp] theorem State.release_cond (s : State) : s.release.cond = s.cond := rfl
@[simp] theorem State.release_dv (s : State) : s.release.dv = s.dv := rfl
@[simp] theorem State.release_dw (s : State) : s.release.dw = s.dw := rfl
@[simp] theorem State.release_cancel (s : State) : s.release.cancel = s.cancel := rfl
@[simp] theorem State.release_base (s : State) : s.release.base = s.base := rfl
@[simp] theorem State.release_len (s : State) : s.release.len = s.len := rfl
@[simp] theorem State.release_digest0 (s : State) : s.release.digest0 = s.digest0 := rfl
@[simp] theorem State.release_digest1 (s : State) : s.release.digest1 = s.digest1 := rfl
@[simp] theorem State.release_mem (s : State) : s.release.mem = s.mem := rfl
@[simp] theorem State.release_params (s : State) : s.release.params = s.params := rfl
@[simp] theorem State.release_draws (s : State) : s.release.draws = s.draws + 1 := rfl
@[simp] theorem State.release_dutyBroken (s : State) : s.release.dutyBroken = s.dutyBroken := rfl
@[simp] theorem State.release_host (s : State) : s.release.host = s.host := rfl
@[simp] theorem State.release_busData (s : State) : s.release.busData = s.busData := rfl

/-! ### `State.raise` -/

@[simp] theorem State.raise_x (s : State) (c : Cond) : (s.raise c).x = s.x := rfl
@[simp] theorem State.raise_written (s : State) (c : Cond) : (s.raise c).written = s.written := rfl
@[simp] theorem State.raise_work (s : State) (c : Cond) : (s.raise c).work = freeWork s.draws := rfl
@[simp] theorem State.raise_phase (s : State) (c : Cond) : (s.raise c).phase = .idle := rfl
@[simp] theorem State.raise_mode (s : State) (c : Cond) : (s.raise c).mode = freeMode s.draws := rfl
@[simp] theorem State.raise_pos (s : State) (c : Cond) : (s.raise c).pos = Config.freeWord s.draws 33 := rfl
@[simp] theorem State.raise_cnt (s : State) (c : Cond) : (s.raise c).cnt = Config.freeWord s.draws 34 := rfl
@[simp] theorem State.raise_cond (s : State) (c : Cond) : (s.raise c).cond = c := rfl
@[simp] theorem State.raise_dv (s : State) (c : Cond) : (s.raise c).dv = s.dv := rfl
@[simp] theorem State.raise_dw (s : State) (c : Cond) : (s.raise c).dw = s.dw := rfl
@[simp] theorem State.raise_cancel (s : State) (c : Cond) : (s.raise c).cancel = s.cancel := rfl
@[simp] theorem State.raise_base (s : State) (c : Cond) : (s.raise c).base = s.base := rfl
@[simp] theorem State.raise_len (s : State) (c : Cond) : (s.raise c).len = s.len := rfl
@[simp] theorem State.raise_digest0 (s : State) (c : Cond) : (s.raise c).digest0 = s.digest0 := rfl
@[simp] theorem State.raise_digest1 (s : State) (c : Cond) : (s.raise c).digest1 = s.digest1 := rfl
@[simp] theorem State.raise_mem (s : State) (c : Cond) : (s.raise c).mem = s.mem := rfl
@[simp] theorem State.raise_params (s : State) (c : Cond) : (s.raise c).params = s.params := rfl
@[simp] theorem State.raise_draws (s : State) (c : Cond) : (s.raise c).draws = s.draws + 1 := rfl
@[simp] theorem State.raise_dutyBroken (s : State) (c : Cond) : (s.raise c).dutyBroken = s.dutyBroken := rfl
@[simp] theorem State.raise_host (s : State) (c : Cond) : (s.raise c).host = s.host := rfl
@[simp] theorem State.raise_busData (s : State) (c : Cond) : (s.raise c).busData = s.busData := rfl

/-! ### `State.deliver` -/

@[simp] theorem State.deliver_x (s : State) (w : BitVec 8) (d0 d1 : Word) : (s.deliver w d0 d1).x = s.x := rfl
@[simp] theorem State.deliver_written (s : State) (w : BitVec 8) (d0 d1 : Word) : (s.deliver w d0 d1).written = s.written := rfl
@[simp] theorem State.deliver_work (s : State) (w : BitVec 8) (d0 d1 : Word) : (s.deliver w d0 d1).work = freeWork s.draws := rfl
@[simp] theorem State.deliver_phase (s : State) (w : BitVec 8) (d0 d1 : Word) : (s.deliver w d0 d1).phase = .idle := rfl
@[simp] theorem State.deliver_mode (s : State) (w : BitVec 8) (d0 d1 : Word) : (s.deliver w d0 d1).mode = freeMode s.draws := rfl
@[simp] theorem State.deliver_pos (s : State) (w : BitVec 8) (d0 d1 : Word) : (s.deliver w d0 d1).pos = Config.freeWord s.draws 33 := rfl
@[simp] theorem State.deliver_cnt (s : State) (w : BitVec 8) (d0 d1 : Word) : (s.deliver w d0 d1).cnt = Config.freeWord s.draws 34 := rfl
@[simp] theorem State.deliver_cond (s : State) (w : BitVec 8) (d0 d1 : Word) : (s.deliver w d0 d1).cond = s.cond := rfl
@[simp] theorem State.deliver_dv (s : State) (w : BitVec 8) (d0 d1 : Word) : (s.deliver w d0 d1).dv = true := rfl
@[simp] theorem State.deliver_dw (s : State) (w : BitVec 8) (d0 d1 : Word) : (s.deliver w d0 d1).dw = w := rfl
@[simp] theorem State.deliver_cancel (s : State) (w : BitVec 8) (d0 d1 : Word) : (s.deliver w d0 d1).cancel = s.cancel := rfl
@[simp] theorem State.deliver_base (s : State) (w : BitVec 8) (d0 d1 : Word) : (s.deliver w d0 d1).base = s.base := rfl
@[simp] theorem State.deliver_len (s : State) (w : BitVec 8) (d0 d1 : Word) : (s.deliver w d0 d1).len = s.len := rfl
@[simp] theorem State.deliver_digest0 (s : State) (w : BitVec 8) (d0 d1 : Word) : (s.deliver w d0 d1).digest0 = d0 := rfl
@[simp] theorem State.deliver_digest1 (s : State) (w : BitVec 8) (d0 d1 : Word) : (s.deliver w d0 d1).digest1 = d1 := rfl
@[simp] theorem State.deliver_mem (s : State) (w : BitVec 8) (d0 d1 : Word) : (s.deliver w d0 d1).mem = s.mem := rfl
@[simp] theorem State.deliver_params (s : State) (w : BitVec 8) (d0 d1 : Word) : (s.deliver w d0 d1).params = s.params := rfl
@[simp] theorem State.deliver_draws (s : State) (w : BitVec 8) (d0 d1 : Word) : (s.deliver w d0 d1).draws = s.draws + 1 := rfl
@[simp] theorem State.deliver_dutyBroken (s : State) (w : BitVec 8) (d0 d1 : Word) : (s.deliver w d0 d1).dutyBroken = s.dutyBroken := rfl
@[simp] theorem State.deliver_host (s : State) (w : BitVec 8) (d0 d1 : Word) : (s.deliver w d0 d1).host = s.host := rfl
@[simp] theorem State.deliver_busData (s : State) (w : BitVec 8) (d0 d1 : Word) : (s.deliver w d0 d1).busData = s.busData := rfl

/-! ### `State.complete` -/

@[simp] theorem State.complete_x (s : State) (w : BitVec 8) (d0 d1 : Word) : (s.complete w d0 d1).x = s.x := rfl
@[simp] theorem State.complete_written (s : State) (w : BitVec 8) (d0 d1 : Word) : (s.complete w d0 d1).written = s.written := rfl
@[simp] theorem State.complete_work (s : State) (w : BitVec 8) (d0 d1 : Word) : (s.complete w d0 d1).work = freeWork s.draws := rfl
@[simp] theorem State.complete_phase (s : State) (w : BitVec 8) (d0 d1 : Word) : (s.complete w d0 d1).phase = .idle := rfl
@[simp] theorem State.complete_mode (s : State) (w : BitVec 8) (d0 d1 : Word) : (s.complete w d0 d1).mode = freeMode s.draws := rfl
@[simp] theorem State.complete_pos (s : State) (w : BitVec 8) (d0 d1 : Word) : (s.complete w d0 d1).pos = Config.freeWord s.draws 33 := rfl
@[simp] theorem State.complete_cnt (s : State) (w : BitVec 8) (d0 d1 : Word) : (s.complete w d0 d1).cnt = Config.freeWord s.draws 34 := rfl
@[simp] theorem State.complete_cond (s : State) (w : BitVec 8) (d0 d1 : Word) : (s.complete w d0 d1).cond = .ok := rfl
@[simp] theorem State.complete_dv (s : State) (w : BitVec 8) (d0 d1 : Word) : (s.complete w d0 d1).dv = true := rfl
@[simp] theorem State.complete_dw (s : State) (w : BitVec 8) (d0 d1 : Word) : (s.complete w d0 d1).dw = w := rfl
@[simp] theorem State.complete_cancel (s : State) (w : BitVec 8) (d0 d1 : Word) : (s.complete w d0 d1).cancel = s.cancel := rfl
@[simp] theorem State.complete_base (s : State) (w : BitVec 8) (d0 d1 : Word) : (s.complete w d0 d1).base = s.base := rfl
@[simp] theorem State.complete_len (s : State) (w : BitVec 8) (d0 d1 : Word) : (s.complete w d0 d1).len = s.len := rfl
@[simp] theorem State.complete_digest0 (s : State) (w : BitVec 8) (d0 d1 : Word) : (s.complete w d0 d1).digest0 = d0 := rfl
@[simp] theorem State.complete_digest1 (s : State) (w : BitVec 8) (d0 d1 : Word) : (s.complete w d0 d1).digest1 = d1 := rfl
@[simp] theorem State.complete_mem (s : State) (w : BitVec 8) (d0 d1 : Word) : (s.complete w d0 d1).mem = s.mem := rfl
@[simp] theorem State.complete_params (s : State) (w : BitVec 8) (d0 d1 : Word) : (s.complete w d0 d1).params = s.params := rfl
@[simp] theorem State.complete_draws (s : State) (w : BitVec 8) (d0 d1 : Word) : (s.complete w d0 d1).draws = s.draws + 1 := rfl
@[simp] theorem State.complete_dutyBroken (s : State) (w : BitVec 8) (d0 d1 : Word) : (s.complete w d0 d1).dutyBroken = s.dutyBroken := rfl
@[simp] theorem State.complete_host (s : State) (w : BitVec 8) (d0 d1 : Word) : (s.complete w d0 d1).host = s.host := rfl
@[simp] theorem State.complete_busData (s : State) (w : BitVec 8) (d0 d1 : Word) : (s.complete w d0 d1).busData = s.busData := rfl

/-! ### `State.enterLoop` -/

@[simp] theorem State.enterLoop_x (s : State) (m : Mode) (pos cnt : Word) (w : Work) : (s.enterLoop m pos cnt w).x = s.x := rfl
@[simp] theorem State.enterLoop_written (s : State) (m : Mode) (pos cnt : Word) (w : Work) : (s.enterLoop m pos cnt w).written = s.written := rfl
@[simp] theorem State.enterLoop_work (s : State) (m : Mode) (pos cnt : Word) (w : Work) : (s.enterLoop m pos cnt w).work = w := rfl
@[simp] theorem State.enterLoop_phase (s : State) (m : Mode) (pos cnt : Word) (w : Work) : (s.enterLoop m pos cnt w).phase = .loop := rfl
@[simp] theorem State.enterLoop_mode (s : State) (m : Mode) (pos cnt : Word) (w : Work) : (s.enterLoop m pos cnt w).mode = m := rfl
@[simp] theorem State.enterLoop_pos (s : State) (m : Mode) (pos cnt : Word) (w : Work) : (s.enterLoop m pos cnt w).pos = pos := rfl
@[simp] theorem State.enterLoop_cnt (s : State) (m : Mode) (pos cnt : Word) (w : Work) : (s.enterLoop m pos cnt w).cnt = cnt := rfl
@[simp] theorem State.enterLoop_cond (s : State) (m : Mode) (pos cnt : Word) (w : Work) : (s.enterLoop m pos cnt w).cond = .ok := rfl
@[simp] theorem State.enterLoop_dv (s : State) (m : Mode) (pos cnt : Word) (w : Work) : (s.enterLoop m pos cnt w).dv = s.dv := rfl
@[simp] theorem State.enterLoop_dw (s : State) (m : Mode) (pos cnt : Word) (w : Work) : (s.enterLoop m pos cnt w).dw = s.dw := rfl
@[simp] theorem State.enterLoop_cancel (s : State) (m : Mode) (pos cnt : Word) (w : Work) : (s.enterLoop m pos cnt w).cancel = s.cancel := rfl
@[simp] theorem State.enterLoop_base (s : State) (m : Mode) (pos cnt : Word) (w : Work) : (s.enterLoop m pos cnt w).base = s.base := rfl
@[simp] theorem State.enterLoop_len (s : State) (m : Mode) (pos cnt : Word) (w : Work) : (s.enterLoop m pos cnt w).len = s.len := rfl
@[simp] theorem State.enterLoop_digest0 (s : State) (m : Mode) (pos cnt : Word) (w : Work) : (s.enterLoop m pos cnt w).digest0 = s.digest0 := rfl
@[simp] theorem State.enterLoop_digest1 (s : State) (m : Mode) (pos cnt : Word) (w : Work) : (s.enterLoop m pos cnt w).digest1 = s.digest1 := rfl
@[simp] theorem State.enterLoop_mem (s : State) (m : Mode) (pos cnt : Word) (w : Work) : (s.enterLoop m pos cnt w).mem = s.mem := rfl
@[simp] theorem State.enterLoop_params (s : State) (m : Mode) (pos cnt : Word) (w : Work) : (s.enterLoop m pos cnt w).params = s.params := rfl
@[simp] theorem State.enterLoop_draws (s : State) (m : Mode) (pos cnt : Word) (w : Work) : (s.enterLoop m pos cnt w).draws = s.draws + 1 := rfl
@[simp] theorem State.enterLoop_dutyBroken (s : State) (m : Mode) (pos cnt : Word) (w : Work) : (s.enterLoop m pos cnt w).dutyBroken = s.dutyBroken := rfl
@[simp] theorem State.enterLoop_host (s : State) (m : Mode) (pos cnt : Word) (w : Work) : (s.enterLoop m pos cnt w).host = s.host := rfl
@[simp] theorem State.enterLoop_busData (s : State) (m : Mode) (pos cnt : Word) (w : Work) : (s.enterLoop m pos cnt w).busData = s.busData := rfl

/-! ### `State.advance` -/

@[simp] theorem State.advance_x (s : State) (g : Word) (w : Work) : (s.advance g w).x = s.x := rfl
@[simp] theorem State.advance_written (s : State) (g : Word) (w : Work) : (s.advance g w).written = s.written := rfl
@[simp] theorem State.advance_work (s : State) (g : Word) (w : Work) : (s.advance g w).work = w := rfl
@[simp] theorem State.advance_phase (s : State) (g : Word) (w : Work) : (s.advance g w).phase = if s.cnt - 1 = 0 then .fin else s.phase := rfl
@[simp] theorem State.advance_mode (s : State) (g : Word) (w : Work) : (s.advance g w).mode = s.mode := rfl
@[simp] theorem State.advance_pos (s : State) (g : Word) (w : Work) : (s.advance g w).pos = s.pos + g := rfl
@[simp] theorem State.advance_cnt (s : State) (g : Word) (w : Work) : (s.advance g w).cnt = s.cnt - 1 := rfl
@[simp] theorem State.advance_cond (s : State) (g : Word) (w : Work) : (s.advance g w).cond = s.cond := rfl
@[simp] theorem State.advance_dv (s : State) (g : Word) (w : Work) : (s.advance g w).dv = s.dv := rfl
@[simp] theorem State.advance_dw (s : State) (g : Word) (w : Work) : (s.advance g w).dw = s.dw := rfl
@[simp] theorem State.advance_cancel (s : State) (g : Word) (w : Work) : (s.advance g w).cancel = s.cancel := rfl
@[simp] theorem State.advance_base (s : State) (g : Word) (w : Work) : (s.advance g w).base = s.base := rfl
@[simp] theorem State.advance_len (s : State) (g : Word) (w : Work) : (s.advance g w).len = s.len := rfl
@[simp] theorem State.advance_digest0 (s : State) (g : Word) (w : Work) : (s.advance g w).digest0 = s.digest0 := rfl
@[simp] theorem State.advance_digest1 (s : State) (g : Word) (w : Work) : (s.advance g w).digest1 = s.digest1 := rfl
@[simp] theorem State.advance_mem (s : State) (g : Word) (w : Work) : (s.advance g w).mem = s.mem := rfl
@[simp] theorem State.advance_params (s : State) (g : Word) (w : Work) : (s.advance g w).params = s.params := rfl
@[simp] theorem State.advance_draws (s : State) (g : Word) (w : Work) : (s.advance g w).draws = s.draws := rfl
@[simp] theorem State.advance_dutyBroken (s : State) (g : Word) (w : Work) : (s.advance g w).dutyBroken = s.dutyBroken := rfl
@[simp] theorem State.advance_host (s : State) (g : Word) (w : Work) : (s.advance g w).host = s.host := rfl
@[simp] theorem State.advance_busData (s : State) (g : Word) (w : Work) : (s.advance g w).busData = s.busData := rfl

/-! ### `State.resetCore` -/

@[simp] theorem State.resetCore_x (s : State) : s.resetCore.x = s.x := rfl
@[simp] theorem State.resetCore_written (s : State) : s.resetCore.written = Vector.replicate 16 false := rfl
@[simp] theorem State.resetCore_work (s : State) : s.resetCore.work = freeWork s.draws := rfl
@[simp] theorem State.resetCore_phase (s : State) : s.resetCore.phase = .idle := rfl
@[simp] theorem State.resetCore_mode (s : State) : s.resetCore.mode = .m32 := rfl
@[simp] theorem State.resetCore_pos (s : State) : s.resetCore.pos = 0 := rfl
@[simp] theorem State.resetCore_cnt (s : State) : s.resetCore.cnt = 0 := rfl
@[simp] theorem State.resetCore_cond (s : State) : s.resetCore.cond = .ok := rfl
@[simp] theorem State.resetCore_dv (s : State) : s.resetCore.dv = false := rfl
@[simp] theorem State.resetCore_dw (s : State) : s.resetCore.dw = 0 := rfl
@[simp] theorem State.resetCore_cancel (s : State) : s.resetCore.cancel = false := rfl
@[simp] theorem State.resetCore_base (s : State) : s.resetCore.base = 0 := rfl
@[simp] theorem State.resetCore_len (s : State) : s.resetCore.len = 0 := rfl
@[simp] theorem State.resetCore_digest0 (s : State) : s.resetCore.digest0 = 0 := rfl
@[simp] theorem State.resetCore_digest1 (s : State) : s.resetCore.digest1 = 0 := rfl
@[simp] theorem State.resetCore_mem (s : State) : s.resetCore.mem = s.mem := rfl
@[simp] theorem State.resetCore_params (s : State) : s.resetCore.params = s.params := rfl
@[simp] theorem State.resetCore_draws (s : State) : s.resetCore.draws = s.draws + 1 := rfl
@[simp] theorem State.resetCore_dutyBroken (s : State) : s.resetCore.dutyBroken = false := rfl
@[simp] theorem State.resetCore_host (s : State) : s.resetCore.host = s.host := rfl
@[simp] theorem State.resetCore_busData (s : State) : s.resetCore.busData = s.busData := rfl

/-! ### `State.memWrite` -/

@[simp] theorem State.memWrite_x (s : State) (a : Word) (b : Byte) : (s.memWrite a b).x = s.x := rfl
@[simp] theorem State.memWrite_written (s : State) (a : Word) (b : Byte) : (s.memWrite a b).written = s.written := rfl
@[simp] theorem State.memWrite_work (s : State) (a : Word) (b : Byte) : (s.memWrite a b).work = s.work := rfl
@[simp] theorem State.memWrite_phase (s : State) (a : Word) (b : Byte) : (s.memWrite a b).phase = s.phase := rfl
@[simp] theorem State.memWrite_mode (s : State) (a : Word) (b : Byte) : (s.memWrite a b).mode = s.mode := rfl
@[simp] theorem State.memWrite_pos (s : State) (a : Word) (b : Byte) : (s.memWrite a b).pos = s.pos := rfl
@[simp] theorem State.memWrite_cnt (s : State) (a : Word) (b : Byte) : (s.memWrite a b).cnt = s.cnt := rfl
@[simp] theorem State.memWrite_cond (s : State) (a : Word) (b : Byte) : (s.memWrite a b).cond = s.cond := rfl
@[simp] theorem State.memWrite_dv (s : State) (a : Word) (b : Byte) : (s.memWrite a b).dv = s.dv := rfl
@[simp] theorem State.memWrite_dw (s : State) (a : Word) (b : Byte) : (s.memWrite a b).dw = s.dw := rfl
@[simp] theorem State.memWrite_cancel (s : State) (a : Word) (b : Byte) : (s.memWrite a b).cancel = s.cancel := rfl
@[simp] theorem State.memWrite_base (s : State) (a : Word) (b : Byte) : (s.memWrite a b).base = s.base := rfl
@[simp] theorem State.memWrite_len (s : State) (a : Word) (b : Byte) : (s.memWrite a b).len = s.len := rfl
@[simp] theorem State.memWrite_digest0 (s : State) (a : Word) (b : Byte) : (s.memWrite a b).digest0 = s.digest0 := rfl
@[simp] theorem State.memWrite_digest1 (s : State) (a : Word) (b : Byte) : (s.memWrite a b).digest1 = s.digest1 := rfl
@[simp] theorem State.memWrite_mem (s : State) (a : Word) (b : Byte) : (s.memWrite a b).mem = s.mem.write a.toNat b := rfl
@[simp] theorem State.memWrite_params (s : State) (a : Word) (b : Byte) : (s.memWrite a b).params = s.params := rfl
@[simp] theorem State.memWrite_draws (s : State) (a : Word) (b : Byte) : (s.memWrite a b).draws = s.draws := rfl
@[simp] theorem State.memWrite_dutyBroken (s : State) (a : Word) (b : Byte) : (s.memWrite a b).dutyBroken = (s.dutyBroken || (s.busy && s.inWindow a)) := rfl
@[simp] theorem State.memWrite_host (s : State) (a : Word) (b : Byte) : (s.memWrite a b).host = s.host := rfl
@[simp] theorem State.memWrite_busData (s : State) (a : Word) (b : Byte) : (s.memWrite a b).busData = s.busData := rfl

/-! ### Reset -/

@[simp] theorem State.resetOf_x (p : Params) : (State.resetOf p).x = Vector.replicate 16 0 := rfl
@[simp] theorem State.resetOf_written (p : Params) : (State.resetOf p).written = Vector.replicate 16 false := rfl
@[simp] theorem State.resetOf_work (p : Params) : (State.resetOf p).work = Work.zero := rfl
@[simp] theorem State.resetOf_phase (p : Params) : (State.resetOf p).phase = .idle := rfl
@[simp] theorem State.resetOf_mode (p : Params) : (State.resetOf p).mode = .m32 := rfl
@[simp] theorem State.resetOf_pos (p : Params) : (State.resetOf p).pos = 0 := rfl
@[simp] theorem State.resetOf_cnt (p : Params) : (State.resetOf p).cnt = 0 := rfl
@[simp] theorem State.resetOf_cond (p : Params) : (State.resetOf p).cond = .ok := rfl
@[simp] theorem State.resetOf_dv (p : Params) : (State.resetOf p).dv = false := rfl
@[simp] theorem State.resetOf_dw (p : Params) : (State.resetOf p).dw = 0 := rfl
@[simp] theorem State.resetOf_cancel (p : Params) : (State.resetOf p).cancel = false := rfl
@[simp] theorem State.resetOf_base (p : Params) : (State.resetOf p).base = 0 := rfl
@[simp] theorem State.resetOf_len (p : Params) : (State.resetOf p).len = 0 := rfl
@[simp] theorem State.resetOf_digest0 (p : Params) : (State.resetOf p).digest0 = 0 := rfl
@[simp] theorem State.resetOf_digest1 (p : Params) : (State.resetOf p).digest1 = 0 := rfl
@[simp] theorem State.resetOf_mem (p : Params) : (State.resetOf p).mem = [] := rfl
@[simp] theorem State.resetOf_params (p : Params) : (State.resetOf p).params = p := rfl
@[simp] theorem State.resetOf_draws (p : Params) : (State.resetOf p).draws = 0 := rfl
@[simp] theorem State.resetOf_dutyBroken (p : Params) : (State.resetOf p).dutyBroken = false := rfl
@[simp] theorem State.resetOf_host (p : Params) : (State.resetOf p).host = [] := rfl
@[simp] theorem State.resetOf_busData (p : Params) : (State.resetOf p).busData = 0 := rfl

end Sys2Proof.Machine
end

