-- ==== Sys2Proof/Laws/Ops.lean ====
section
/-! SUPPORT. For each shared operation one lemma that says once what it can do. -/

namespace Sys2Proof.Machine

/-! ### Operand registers -/

theorem State.operand_written (s : State) (slot : Nat) (i : Reg) (h : s.written[i] = true) :
    s.operand slot i = s.x[i] := by simp [State.operand, h]

theorem State.operand_unwritten (s : State) (slot : Nat) (i : Reg) (h : s.written[i] = false) :
    s.operand slot i = Config.freeWord s.draws slot := by simp [State.operand, h]

/-- A register write sets that register and no other. -/
theorem State.setX_get (s : State) (i j : Reg) (v : Word) :
    (s.setX i v).x[j] = (if i = j then v else s.x[j]) ∧
      (s.setX i v).written[j] = (if i = j then true else s.written[j]) := by
  simp [State.setX, Vector.getElem_set, Fin.ext_iff]

theorem State.operand_setX_same (s : State) (slot : Nat) (i : Reg) (v : Word) :
    (s.setX i v).operand slot i = v := by
  simp [State.operand]

/-! ### Free values -/

@[simp] theorem State.promised_kept (s : State) (slot : Nat) (v : Word) (h : s.dutyBroken = false) :
    s.promised slot v = v := by simp [State.promised, h]

/-! ### The message window -/

theorem State.windowWraps_iff (s : State) : s.windowWraps = true ↔ 2 ^ 64 < s.base.toNat + s.len.toNat := by
  simp [State.windowWraps]

/-- The read check is the window check, or `o + k > LEN` (R208). -/
theorem State.outOfBounds_iff (s : State) (o : Word) (k : Nat) :
    s.outOfBounds o k = true ↔ s.windowWraps = true ∨ s.len.toNat < o.toNat + k := by
  simp only [State.outOfBounds, Bool.or_eq_true, decide_eq_true_eq, or_assoc]
  refine or_congr Iff.rfl ?_
  omega

/-! ### The common part of a hash -/

/-- What accepting a hash can do: one of the three raises, in the order of R187, or the start step. -/
theorem State.acceptHash_cases (s : State) (ok : Bool) (start : State → State) :
    let s1 : State := { s with dv := false, dw := 0, dutyBroken := false }
    (ok = false ∧ s.acceptHash ok start = s1.raise .unsupportedWidth) ∨
    (ok = true ∧ s.cancel = true ∧ s.acceptHash ok start = s1.raise .cancelled) ∨
    (ok = true ∧ s.cancel = false ∧ s.windowWraps = true ∧ s.acceptHash ok start = s1.raise .bounds) ∨
    (ok = true ∧ s.cancel = false ∧ s.windowWraps = false ∧ s.acceptHash ok start = start s1) := by
  have hw : State.windowWraps { s with dv := false, dw := 0, dutyBroken := false } = s.windowWraps := rfl
  simp only [State.acceptHash, hw]
  cases ok <;> cases hc : s.cancel <;> cases hb : s.windowWraps <;> simp

/-! ### The sequencer -/

/-- `BUSY` is `PHASE != IDLE` (R27). -/
theorem State.busy_eq (s : State) : s.busy = !decide (s.phase = .idle) := by
  unfold State.busy
  cases s.phase <;> rfl

/-- Consuming a group advances the sequencer by the mode's group. -/
theorem consumeGroup_eq (s : State) :
    consumeGroup s =
      match s.mode with
      | .m32 => s.advance 20 (round32 s.msg s.pos s.work)
      | .m64 => s.advance 64 (round64 s.msg s.pos s.work)
      | .m128 => s.advance 128 (round128 s.msg s.pos s.work)
      | .mcm => s.advance 16 (roundCm s.msg s.pos s.work) := by
  unfold consumeGroup
  cases s.mode <;> rfl

/-- What consuming a group can do: `advance` by some group with some new working registers. -/
theorem consumeGroup_cases (s : State) : ∃ g w, consumeGroup s = s.advance g w := by
  rw [consumeGroup_eq]
  cases s.mode <;> exact ⟨_, _, rfl⟩

/-- What a finish step can do: deliver a digest. -/
theorem finishStep_cases (s : State) :
    ∃ w d0 d1, finishStep s = s.deliver w d0 d1 ∧ (w = 32 ∨ w = 64 ∨ w = 128) := by
  unfold finishStep
  cases s.mode
  · exact ⟨32, _, _, rfl, .inl rfl⟩
  · exact ⟨64, _, _, rfl, .inr (.inl rfl)⟩
  · exact ⟨128, _, _, rfl, .inr (.inr rfl)⟩
  · exact ⟨128, _, _, rfl, .inr (.inr rfl)⟩

/-- What the sequencer's own step can do (R185). -/
theorem sequencerStep_cases (s : State) :
    (s.phase = .idle ∧ sequencerStep s = s) ∨
    (s.phase = .loop ∧ s.cancel = true ∧ sequencerStep s = s.raise .cancelled) ∨
    (s.phase = .loop ∧ s.cancel = false ∧ sequencerStep s = consumeGroup s) ∨
    (s.phase = .fin ∧ sequencerStep s = finishStep s) := by
  unfold sequencerStep loopStep
  cases s.phase <;> cases s.cancel <;> simp

/-- The sequencer's own step leaves the host's part of the state alone. -/
theorem sequencerStep_frame (s : State) :
    (sequencerStep s).host = s.host ∧ (sequencerStep s).busData = s.busData ∧ (sequencerStep s).mem = s.mem ∧
      (sequencerStep s).params = s.params ∧ (sequencerStep s).x = s.x ∧ (sequencerStep s).written = s.written ∧
      (sequencerStep s).cancel = s.cancel ∧ (sequencerStep s).base = s.base ∧ (sequencerStep s).len = s.len := by
  rcases sequencerStep_cases s with ⟨-, h⟩ | ⟨-, -, h⟩ | ⟨-, -, h⟩ | ⟨-, h⟩ <;> rw [h]
  · simp
  · simp
  · obtain ⟨g, w, hg⟩ := consumeGroup_cases s
    simp [hg]
  · obtain ⟨w, d0, d1, hd, -⟩ := finishStep_cases s
    simp [hd]

/-! ### The rounds leave `S.soff` and `S.mlen` alone -/

@[simp] theorem round32_soff (m : Message) (p : Word) (w : Work) : (round32 m p w).soff = w.soff := by cases w; rfl
@[simp] theorem round32_mlen (m : Message) (p : Word) (w : Work) : (round32 m p w).mlen = w.mlen := by cases w; rfl
@[simp] theorem round64_soff (m : Message) (p : Word) (w : Work) : (round64 m p w).soff = w.soff := by cases w; rfl
@[simp] theorem round64_mlen (m : Message) (p : Word) (w : Work) : (round64 m p w).mlen = w.mlen := by cases w; rfl
@[simp] theorem round128_soff (m : Message) (p : Word) (w : Work) : (round128 m p w).soff = w.soff := by simp [round128]
@[simp] theorem round128_mlen (m : Message) (p : Word) (w : Work) : (round128 m p w).mlen = w.mlen := by simp [round128]
@[simp] theorem roundCm_soff (m : Message) (p : Word) (w : Work) : (roundCm m p w).soff = w.soff := by cases w; rfl
@[simp] theorem roundCm_mlen (m : Message) (p : Word) (w : Work) : (roundCm m p w).mlen = w.mlen := by cases w; rfl

/-! ### The bus -/

/-- The offsets of the register map (R38). -/
theorem busReg_cases {off width : Nat} {r : BusReg} (h : busReg off width = some r) :
    width = 64 ∧
      ((∃ i : Reg, r = .x i ∧ off = 8 * i.val) ∨ (r = .cmd ∧ off = 0x80) ∨ (r = .status ∧ off = 0x88) ∨
        (r = .ctrl ∧ off = 0x90) ∨ (r = .base ∧ off = 0x98) ∨ (r = .len ∧ off = 0xA0) ∨
        (r = .digest0 ∧ off = 0xA8) ∨ (r = .digest1 ∧ off = 0xB0)) := by
  unfold busReg at h
  split at h
  · cases h
  · rename_i hw
    refine ⟨by omega, ?_⟩
    split at h
    · cases h
      exact .inl ⟨_, rfl, by simp only; omega⟩
    · repeat' split at h
      all_goals first | (cases h; done) | (cases h; simp_all)

/-- A write the host may make only while idle is held while busy (R193). -/
theorem State.whenIdle_cases (s : State) (t : Turn) :
    (s.phase = .idle ∧ s.whenIdle t = t) ∨ (s.phase ≠ .idle ∧ s.whenIdle t = .done (sequencerStep s)) := by
  unfold State.whenIdle State.busy
  cases s.phase <;> simp

/-- What one transition can do (R185): the host's head move, or the sequencer's step. -/
theorem step_cases (s : State) :
    ((s.host = [] ∨ ∃ off w d rest, s.host = .busWrite off w d :: rest ∧ s.phase ≠ .idle) ∧
        step s = .next (sequencerStep s)) ∨
    (∃ rest, s.host = .run :: rest ∧ step s = .next (sequencerStep { s with host := rest })) ∨
    (∃ off w rest r, s.host = .busRead off w :: rest ∧ busReg off w = some r ∧
        step s = .next { s.tick with host := rest, busData := s.busValue r }) ∨
    (∃ off w d rest r, s.host = .busWrite off w d :: rest ∧ busReg off w = some r ∧
        ((∃ i, r = .x i ∧ s.phase = .idle ∧ step s = .next (State.setX { s with host := rest } i d)) ∨
         (r = .cmd ∧ s.phase = .idle ∧ step s = commandStep (trunc32 d) { s with host := rest }) ∨
         ((r = .status ∨ r = .digest0 ∨ r = .digest1) ∧ step s = .next { s with host := rest }) ∨
         (r = .ctrl ∧ step s = .next { s with host := rest, cancel := d.getLsbD 0 }) ∨
         (r = .base ∧ s.phase = .idle ∧ step s = .next { s with host := rest, base := d }) ∨
         (r = .len ∧ s.phase = .idle ∧ step s = .next { s with host := rest, len := d }))) ∨
    (∃ off w rest, (s.host = .busRead off w :: rest ∨ ∃ d, s.host = .busWrite off w d :: rest) ∧
        busReg off w = none ∧ step s = .refused .noSuchRegister) ∨
    (∃ a b rest, s.host = .memWrite a b :: rest ∧ step s = .next (State.memWrite { s with host := rest } a b)) ∨
    (∃ rest, s.host = .reset :: rest ∧ step s = .next (State.resetCore { s with host := rest })) := by
  unfold step turn
  cases hh : s.host with
  | nil => exact .inl ⟨.inl rfl, rfl⟩
  | cons mv rest =>
    cases mv with
    | run => exact .inr (.inl ⟨rest, rfl, rfl⟩)
    | busRead off w =>
      cases hr : busReg off w with
      | none => exact .inr (.inr (.inr (.inr (.inl ⟨off, w, rest, .inl rfl, hr, by simp [hr]⟩))))
      | some r => exact .inr (.inr (.inl ⟨off, w, rest, r, rfl, hr, by simp [hr]⟩))
    | busWrite off w d =>
      cases hr : busReg off w with
      | none => exact .inr (.inr (.inr (.inr (.inl ⟨off, w, rest, .inr ⟨d, rfl⟩, hr, by simp [hr]⟩))))
      | some r =>
        by_cases hp : s.phase = .idle
        · refine .inr (.inr (.inr (.inl ⟨off, w, d, rest, r, rfl, hr, ?_⟩)))
          cases r <;> simp [hr, State.busWrite, State.whenIdle, State.busy, hp]
        · have hold : (∃ i, r = .x i) ∨ r = .cmd ∨ r = .base ∨ r = .len →
              step s = .next (sequencerStep s) := by
            unfold step turn
            rintro (⟨i, rfl⟩ | rfl | rfl | rfl) <;>
              simp [hh, hr, State.busWrite, State.whenIdle, State.busy, hp]
          have free : r = .status ∨ r = .ctrl ∨ r = .digest0 ∨ r = .digest1 →
              ((r = .status ∨ r = .digest0 ∨ r = .digest1) ∧ step s = .next { s with host := rest }) ∨
                (r = .ctrl ∧ step s = .next { s with host := rest, cancel := d.getLsbD 0 }) := by
            unfold step turn
            rintro (rfl | rfl | rfl | rfl) <;> simp [hh, hr, State.busWrite]
          have : ((∃ i, r = .x i) ∨ r = .cmd ∨ r = .base ∨ r = .len) ∨
              r = .status ∨ r = .ctrl ∨ r = .digest0 ∨ r = .digest1 := by cases r <;> simp
          rcases this with h | h
          · exact .inl ⟨.inr ⟨off, w, d, rest, rfl, hp⟩, by simpa [step, turn, hh] using hold h⟩
          · refine .inr (.inr (.inr (.inl ⟨off, w, d, rest, r, rfl, hr, ?_⟩)))
            rcases free h with f | f
            · exact .inr (.inr (.inl (by simpa [step, turn, hh] using f)))
            · exact .inr (.inr (.inr (.inl (by simpa [step, turn, hh] using f))))
    | memWrite a b => exact .inr (.inr (.inr (.inr (.inr (.inl ⟨a, b, rest, rfl, rfl⟩)))))
    | reset => exact .inr (.inr (.inr (.inr (.inr (.inr ⟨rest, rfl, rfl⟩)))))

end Sys2Proof.Machine
end

