-- ==== Sys2Proof/Laws/Exec.lean ====
section
/-! SUPPORT. What a command step can do, said once (spec/45_system.md R186, R187): the inversion lemmas of the start steps and
of `exec`. -/

namespace Sys2Proof.Machine

/-- What the body of a 128-bit start step can do (R162): complete, or enter one of its two loops. -/
theorem body128_cases (s : State) (lo hi soff k : Word) :
    (∃ d0 d1, k.toNat ≤ 16 ∧ body128 s lo hi soff k = s.complete 128 d0 d1) ∨
    (∃ w, 128 ≤ k.toNat ∧ w.soff = soff ∧ w.mlen = k ∧
      body128 s lo hi soff k = s.enterLoop .m128 soff (iters128 k) w) ∨
    (∃ w, 17 ≤ k.toNat ∧ k.toNat ≤ 127 ∧ w.soff = soff ∧ w.mlen = k ∧
      body128 s lo hi soff k = s.enterLoop .mcm soff (itersCm k) w) := by
  unfold body128
  dsimp only
  split
  · exact .inr (.inl ⟨_, ‹_›, rfl, rfl, rfl⟩)
  · split
    · exact .inl ⟨_, _, ‹_›, rfl⟩
    · exact .inr (.inr ⟨_, by omega, by omega, rfl, rfl, rfl⟩)

/-- What the start step of the 32-bit engine can do (R120). -/
theorem start32_cases (s : State) :
    (∃ v, s.len.toNat ≤ 24 ∧ start32 s = s.complete 32 (zext64 v) 0) ∨
    (∃ w, 25 ≤ s.len.toNat ∧ start32 s = s.enterLoop .m32 0 (iters32 s.params.iterRule s.len) w) := by
  unfold start32
  dsimp only
  split
  · exact .inl ⟨_, by omega, rfl⟩
  · split
    · exact .inl ⟨_, by omega, rfl⟩
    · split
      · exact .inl ⟨_, by omega, rfl⟩
      · exact .inr ⟨_, by omega, rfl⟩

/-- What the start step of the 64-bit engine can do (R140). -/
theorem start64_cases (s : State) :
    (∃ v, s.len.toNat ≤ 64 ∧ start64 s = s.complete 64 v 0) ∨
    (∃ w, 65 ≤ s.len.toNat ∧ start64 s = s.enterLoop .m64 0 (iters64 s.params.iterRule s.len) w) := by
  unfold start64
  dsimp only
  split
  · exact .inl ⟨_, by omega, rfl⟩
  · split
    · exact .inl ⟨_, by omega, rfl⟩
    · split
      · exact .inl ⟨_, by omega, rfl⟩
      · exact .inr ⟨_, by omega, rfl⟩

/-- What a start step can do to the state: complete the hash, or enter a loop. -/
def StartEnd (s t : State) : Prop :=
  (∃ w d0 d1, t = s.complete w d0 d1) ∨ (∃ m p c w, t = s.enterLoop m p c w)

theorem body128_end (s : State) (lo hi soff k : Word) : StartEnd s (body128 s lo hi soff k) := by
  rcases body128_cases s lo hi soff k with ⟨_, _, -, h⟩ | ⟨_, -, -, -, h⟩ | ⟨_, -, -, -, -, h⟩
  · exact .inl ⟨_, _, _, h⟩
  · exact .inr ⟨_, _, _, _, h⟩
  · exact .inr ⟨_, _, _, _, h⟩

theorem startHash_end (w : BitVec 8) (s : State) : StartEnd s (startHash w s) := by
  unfold startHash
  split
  · rcases start32_cases s with ⟨_, -, h⟩ | ⟨_, -, h⟩
    · exact .inl ⟨_, _, _, h⟩
    · exact .inr ⟨_, _, _, _, h⟩
  · split
    · rcases start64_cases s with ⟨_, -, h⟩ | ⟨_, -, h⟩
      · exact .inl ⟨_, _, _, h⟩
      · exact .inr ⟨_, _, _, _, h⟩
    · unfold start128
      split
      · exact body128_end ..
      · exact body128_end ..

theorem start128s_end (s : State) : StartEnd s (start128s s) := body128_end ..

/-- A state in which the old digest has been given up: what the common part of a hash does first (R31, R187). -/
def State.withoutDigest (s : State) : State := { s with dv := false, dw := 0, dutyBroken := false }

/-- What accepting a hash can do: a raise, or an end of its start step, always with the old digest given up. -/
theorem State.acceptHash_end (s : State) (ok : Bool) (start : State → State) (h : ∀ u, StartEnd u (start u)) :
    (∃ c, s.acceptHash ok start = s.withoutDigest.raise c) ∨ StartEnd s.withoutDigest (s.acceptHash ok start) := by
  rcases State.acceptHash_cases s ok start with ⟨-, e⟩ | ⟨-, -, e⟩ | ⟨-, -, -, e⟩ | ⟨-, -, -, e⟩
  · exact .inl ⟨_, e⟩
  · exact .inl ⟨_, e⟩
  · exact .inl ⟨_, e⟩
  · rw [e]; exact .inr (h _)

/-- What a command can do (R186): it writes its destinations, or raises `BOUNDS`, or is a system command, or a hash. Every
command answers a next state. -/
theorem exec_cases (i : Instr) (s : State) :
    (∃ rd v, i.dests = [rd] ∧ exec i s = .next (s.result64 rd v)) ∨
    (∃ p, i.dests = [6, 7] ∧ exec i s = .next (s.resultPair p)) ∨
    (exec i s = .next (s.raise .bounds)) ∨
    (i = .nop ∧ exec i s = .next s.ok) ∨
    (i = .sreset ∧ exec i s = .next s.resetCore) ∨
    (i.dests = [] ∧ ∃ c, exec i s = .next (s.withoutDigest.raise c)) ∨
    (i.dests = [] ∧ ∃ t, StartEnd s.withoutDigest t ∧ exec i s = .next t) := by
  have hash : ∀ ok start, (∀ u, StartEnd u (start u)) →
      (∃ c, Host.Outcome.next (s.acceptHash ok start) = (.next (s.withoutDigest.raise c) : Host.Outcome State Fault Refusal)) ∨
        ∃ t, StartEnd s.withoutDigest t ∧
          Host.Outcome.next (s.acceptHash ok start) = (.next t : Host.Outcome State Fault Refusal) := by
    intro ok start h
    rcases State.acceptHash_end s ok start h with ⟨c, e⟩ | e
    · exact .inl ⟨c, by rw [e]⟩
    · exact .inr ⟨_, e, rfl⟩
  cases i
  case nop => exact .inr (.inr (.inr (.inl ⟨rfl, rfl⟩)))
  case sreset => exact .inr (.inr (.inr (.inr (.inl ⟨rfl, rfl⟩))))
  case weak => exact .inr (.inl ⟨_, rfl, rfl⟩)
  case weakm rs1 =>
    unfold exec execWeakm
    dsimp only
    split
    · exact .inr (.inr (.inl rfl))
    · exact .inr (.inl ⟨_, rfl, rfl⟩)
  case ld8 rd rs1 =>
    unfold exec execLd8
    dsimp only
    split
    · exact .inr (.inr (.inl rfl))
    · exact .inl ⟨_, _, rfl, rfl⟩
  case ld32 rd rs1 =>
    unfold exec execLd32
    dsimp only
    split
    · exact .inr (.inr (.inl rfl))
    · exact .inl ⟨_, _, rfl, rfl⟩
  case ld64 rd rs1 =>
    unfold exec execLd64
    dsimp only
    split
    · exact .inr (.inr (.inl rfl))
    · exact .inl ⟨_, _, rfl, rfl⟩
  case hash w =>
    rcases hash (supportedWidth w) (startHash w) (startHash_end w) with h | h
    · exact .inr (.inr (.inr (.inr (.inr (.inl ⟨rfl, h⟩)))))
    · exact .inr (.inr (.inr (.inr (.inr (.inr ⟨rfl, h⟩)))))
  case hash128s =>
    rcases hash true start128s start128s_end with h | h
    · exact .inr (.inr (.inr (.inr (.inr (.inl ⟨rfl, h⟩)))))
    · exact .inr (.inr (.inr (.inr (.inr (.inr ⟨rfl, h⟩)))))
  all_goals exact .inl ⟨_, _, rfl, rfl⟩

/-! ### Runs -/

theorem runs_zero (s : State) : runs 0 s = .next s := rfl

/-- One step more of any machine, where the step answers a next state. -/
theorem run_step (M : Host.Core) (k : Nat) (s u : M.State) (h : M.step s = .next u) : M.run (k + 1) s = M.run k u := by
  rw [Host.Core.run, h]

theorem runs_step {k : Nat} {s u : State} (h : step s = .next u) : runs (k + 1) s = runs k u :=
  run_step Sys2Proof.core k s u h

/-- Where the host has no move, a step is the sequencer's own (R185). -/
theorem step_of_no_host {s : State} (h : s.host = []) : step s = .next (sequencerStep s) := by
  simp [step, turn, h]

/-! ### A loop run to its end

The mode's round is a parameter `f` here, so that no proof about the sequencer unfolds a round's arithmetic. -/

/-- The state after `k` groups, the last of them or not. -/
def State.afterGroups (s : State) (f : Word → Work → Work) (g : Word) (k : Nat) : State :=
  { s with
    work := groupsOf f g k s.pos s.work
    pos := s.pos + g * BitVec.ofNat 64 k
    cnt := s.cnt - BitVec.ofNat 64 k
    phase := if s.cnt.toNat ≤ k then .fin else s.phase }

/-- A loop whose every step consumes a group by `f` runs its `CNT` iterations and stands at its finish step. -/
theorem loop_runs (f : Word → Work → Work) (g : Word) (msg : Message) (m : Mode)
    (hf : ∀ u : State, u.mode = m → u.msg = msg → consumeGroup u = u.advance g (f u.pos u.work)) (k : Nat) :
    ∀ s : State, s.phase = .loop → s.mode = m → s.msg = msg → s.cancel = false → s.host = [] → s.cnt.toNat = k + 1 →
      runs (k + 1) s = .next (s.afterGroups f g (k + 1)) := by
  induction k with
  | zero =>
    intro s hp hm hmsg hc hh hk
    have hs : sequencerStep s = s.advance g (f s.pos s.work) := by
      simp only [sequencerStep, hp, loopStep, hc, hf s hm hmsg]
      simp
    have hz : s.cnt = 1 := BitVec.eq_of_toNat_eq (by rw [hk]; rfl)
    rw [runs_step (step_of_no_host hh), runs_zero, hs]
    simp only [State.advance, State.afterGroups, groupsOf, hz]
    congr 1
    simp
  | succ k ih =>
    intro s hp hm hmsg hc hh hk
    have hs : sequencerStep s = s.advance g (f s.pos s.work) := by
      simp only [sequencerStep, hp, loopStep, hc, hf s hm hmsg]
      simp
    have hcn : (s.cnt - 1).toNat = k + 1 := by
      rw [BitVec.toNat_sub_of_le (by rw [BitVec.le_def, hk]; simp), hk]
      simp
    have hz : s.cnt - 1 ≠ 0 := fun h => by rw [h] at hcn; simp at hcn
    rw [runs_step (step_of_no_host hh), hs,
      ih (s.advance g (f s.pos s.work)) (by simp only [State.advance, hp]; rw [if_neg hz]) hm hmsg hc hh hcn]
    have hpos : s.pos + g + g * BitVec.ofNat 64 (k + 1) = s.pos + g * BitVec.ofNat 64 (k + 1 + 1) := by
      rw [show k + 1 + 1 = 1 + (k + 1) by omega, BitVec.ofNat_add 1, BitVec.mul_add, BitVec.add_assoc]
      simp
    have hcnt : s.cnt - 1 - BitVec.ofNat 64 (k + 1) = s.cnt - BitVec.ofNat 64 (k + 1 + 1) := by
      rw [show k + 1 + 1 = 1 + (k + 1) by omega, BitVec.ofNat_add 1]
      simp only [BitVec.sub_eq_add_neg, BitVec.neg_add, BitVec.add_assoc]
      rfl
    simp only [State.afterGroups, State.advance, groupsOf, hpos, hcnt, hcn, hk, hp, if_neg hz, le_refl, if_true]

/-- One step after `k` steps. -/
theorem runs_then_step (k : Nat) : ∀ s t u : State, runs k s = .next t → step t = .next u → runs (k + 1) s = .next u := by
  induction k with
  | zero =>
    intro s t u h hs
    rw [runs_zero] at h
    cases h
    rw [runs_step hs, runs_zero]
  | succ k ih =>
    intro s t u h hs
    cases hst : step s with
    | next v =>
      rw [runs_step hst] at h ⊢
      exact ih v t u h hs
    | fault x => cases x
    | refused x =>
      have hr := Host.Core.run.eq_2 Sys2Proof.core s k
      rw [show Host.Core.step Sys2Proof.core s = .refused x from hst] at hr
      rw [show runs (k + 1) s = .refused x from hr] at h
      cases h

/-- A loop whose every step consumes a group by `f` runs to its end, finish step included. -/
theorem loop_and_finish_runs (f : Word → Work → Work) (g : Word) (m : Mode) (s : State)
    (hf : ∀ u : State, u.mode = m → u.msg = s.msg → consumeGroup u = u.advance g (f u.pos u.work))
    (hp : s.phase = .loop) (hm : s.mode = m) (hc : s.cancel = false) (hh : s.host = []) (hk : 1 ≤ s.cnt.toNat) :
    runs (s.cnt.toNat + 1) s = .next (finishStep (s.afterGroups f g s.cnt.toNat)) := by
  have hn : s.cnt.toNat = s.cnt.toNat - 1 + 1 := by omega
  have hr := loop_runs f g s.msg m hf (s.cnt.toNat - 1) s hp hm rfl hc hh hn
  rw [← hn] at hr
  refine runs_then_step _ s _ _ hr ?_
  have hq : (s.afterGroups f g s.cnt.toNat).phase = .fin := by simp [State.afterGroups]
  rw [step_of_no_host (by exact hh), sequencerStep, hq]

end Sys2Proof.Machine
end

