-- ==== Sys2Proof/Laws/PerInstr.lean ====
section
/-! SUPPORT. The family `FieldsLegal`: a command's own fields pass the check of R71, whatever its operands. -/

namespace Sys2Proof.Laws

/-- The command is well formed: its opcode is in the table and its unused fields are zero (R71). -/
def FieldsLegal.Statement (i : Instr) : Prop := i.wellFormed = true

theorem FieldsLegal.nop : FieldsLegal.Statement .nop := rfl
theorem FieldsLegal.sreset : FieldsLegal.Statement .sreset := rfl
theorem FieldsLegal.rotr32 (rd rs1 rs2 : Reg) : FieldsLegal.Statement (.rotr32 rd rs1 rs2) := rfl
theorem FieldsLegal.rotr32i (rd rs1 : Reg) (imm8 : BitVec 8) : FieldsLegal.Statement (.rotr32i rd rs1 imm8) := rfl
theorem FieldsLegal.rotr64 (rd rs1 rs2 : Reg) : FieldsLegal.Statement (.rotr64 rd rs1 rs2) := rfl
theorem FieldsLegal.rotr64i (rd rs1 : Reg) (imm8 : BitVec 8) : FieldsLegal.Statement (.rotr64i rd rs1 imm8) := rfl
theorem FieldsLegal.bswap32 (rd rs1 : Reg) : FieldsLegal.Statement (.bswap32 rd rs1) := rfl
theorem FieldsLegal.bswap64 (rd rs1 : Reg) : FieldsLegal.Statement (.bswap64 rd rs1) := rfl
theorem FieldsLegal.mix32 (rd rs1 : Reg) : FieldsLegal.Statement (.mix32 rd rs1) := rfl
theorem FieldsLegal.mix64 (rd rs1 : Reg) : FieldsLegal.Statement (.mix64 rd rs1) := rfl
theorem FieldsLegal.mur (rd rs1 rs2 : Reg) : FieldsLegal.Statement (.mur rd rs1 rs2) := rfl
theorem FieldsLegal.h128to64 (rd rs1 rs2 : Reg) : FieldsLegal.Statement (.h128to64 rd rs1 rs2) := rfl
theorem FieldsLegal.comb (rd rs1 rs2 rs3 : Reg) : FieldsLegal.Statement (.comb rd rs1 rs2 rs3) := rfl
theorem FieldsLegal.weak : FieldsLegal.Statement .weak := rfl
theorem FieldsLegal.weakm (rs1 : Reg) : FieldsLegal.Statement (.weakm rs1) := rfl
theorem FieldsLegal.ld8 (rd rs1 : Reg) : FieldsLegal.Statement (.ld8 rd rs1) := rfl
theorem FieldsLegal.ld32 (rd rs1 : Reg) : FieldsLegal.Statement (.ld32 rd rs1) := rfl
theorem FieldsLegal.ld64 (rd rs1 : Reg) : FieldsLegal.Statement (.ld64 rd rs1) := rfl
theorem FieldsLegal.hash (imm8 : BitVec 8) : FieldsLegal.Statement (.hash imm8) := rfl
theorem FieldsLegal.hash128s : FieldsLegal.Statement .hash128s := rfl

end Sys2Proof.Laws
end

