-- ==== Sys2Proof/Tests/Slice0.lean ====
section
/-! SUPPORT. Tests on fixed values, and for every obligation with hypotheses a state and operands that meet them. Expected
values are those of spec/95_test_vectors.md (the table or program is named), or of the rule named. -/

namespace Sys2Proof.Tests

open Sys2Proof.Machine

/-! ## Helpers -/

/-- What an outcome's next state shows; `none` for a stop. -/
def shows {α : Type} (f : State → α) : Host.Outcome State Fault Refusal → Option α
  | .next t => some (f t)
  | .fault _ => none
  | .refused _ => none

/-- `seq(n)` at `base`: byte `i` has the value `i`; byte 0 reads as an unlisted byte (n at most 256). -/
def seqMem (base n : Nat) : Memory := ((List.range n).drop 1).map fun i => (base + i, BitVec.ofNat 8 i)

/-- An idle machine with the message `seq(n)` at 0x1000. -/
def onSeq (n : Nat) : State := { State.reset with mem := seqMem 0x1000 n, base := 0x1000, len := BitVec.ofNat 64 n }

/-- The same machine with operand registers the host has written. -/
def put (s : State) (l : List (Reg × Word)) : State := l.foldl (fun s p => s.setX p.1 p.2) s

/-- An idle machine with `DV = 1`, the digest `K2` at width 64: `STATUS = 0x00400002`. -/
def afterK2 : State := { State.reset with dv := true, dw := 64, digest0 := 0x9ae16a3b2f90404f }

/-- The start step's result on a width and message length, as far as the sequencer goes. -/
def running (m : Mode) (n pos cnt soff mlen : Nat) (p : Phase) : State :=
  { onSeq n with
    phase := p, mode := m, pos := BitVec.ofNat 64 pos, cnt := BitVec.ofNat 64 cnt
    work := { Work.zero with soff := BitVec.ofNat 64 soff, mlen := BitVec.ofNat 64 mlen } }

/-! ## WellFormed: each check refuses an ill-formed term (R71, R76) -/

theorem test_fields_unknown_opcode : (Fields.mk 0x02 0 0 0 0 0).legal = false := by decide
theorem test_fields_unused_rd : (Fields.mk 0x21 1 8 0 0 0).legal = false := by decide
theorem test_fields_unused_rs1 : (Fields.mk 0x00 0 1 0 0 0).legal = false := by decide
theorem test_fields_unused_rs2 : (Fields.mk 0x11 1 2 3 0 0x25).legal = false := by decide
theorem test_fields_unused_rs3 : (Fields.mk 0x10 1 2 3 4 0).legal = false := by decide
theorem test_fields_unused_imm8 : (Fields.mk 0x1A 9 1 2 3 1).legal = false := by decide
theorem test_fields_legal : (Fields.mk 0x1A 9 1 2 3 0).legal = true := by decide

/-! ## Decoding: the words of table 2.1 -/

theorem test_decode_nop : decode 0x00000000 = some .nop := by decide
theorem test_decode_sreset : decode 0x01000000 = some .sreset := by decide
theorem test_decode_rotr32 : decode 0x10A98000 = some (.rotr32 10 9 8) := by decide
theorem test_decode_rotr32i : decode 0x11100011 = some (.rotr32i 1 0 0x11) := by decide
theorem test_decode_rotr64 : decode 0x12876000 = some (.rotr64 8 7 6) := by decide
theorem test_decode_rotr64i : decode 0x131000FF = some (.rotr64i 1 0 0xFF) := by decide
theorem test_decode_bswap32 : decode 0x14980000 = some (.bswap32 9 8) := by decide
theorem test_decode_bswap64 : decode 0x15320000 = some (.bswap64 3 2) := by decide
theorem test_decode_mix32 : decode 0x16430000 = some (.mix32 4 3) := by decide
theorem test_decode_mix64 : decode 0x17430000 = some (.mix64 4 3) := by decide
theorem test_decode_mur : decode 0x18546000 = some (.mur 5 4 6) := by decide
theorem test_decode_h128to64 : decode 0x19761000 = some (.h128to64 7 6 1) := by decide
theorem test_decode_comb : decode 0x1A912300 = some (.comb 9 1 2 3) := by decide
theorem test_decode_weak : decode 0x20000000 = some .weak := by decide
theorem test_decode_weakm : decode 0x21080000 = some (.weakm 8) := by decide
theorem test_decode_ld8 : decode 0x24B80000 = some (.ld8 11 8) := by decide
theorem test_decode_ld32 : decode 0x25100000 = some (.ld32 1 0) := by decide
theorem test_decode_ld64 : decode 0x26180000 = some (.ld64 1 8) := by decide
theorem test_decode_hash : decode 0x30000040 = some (.hash 0x40) := by decide
theorem test_decode_hash_any_width : decode 0x300000FF = some (.hash 0xFF) := by decide
theorem test_decode_hash128s : decode 0x31000000 = some .hash128s := by decide

/-- The illegal words of table 2.1. -/
theorem test_decode_illegal_opcodes :
    ([0x02000000, 0x1B000000, 0x22000000, 0x23000000, 0x27000000, 0x32000000, 0xFFFFFFFF] : List (BitVec 32)).map decode =
      [none, none, none, none, none, none, none] := by decide
theorem test_decode_illegal_fields :
    ([0x00000001, 0x01100000, 0x10123400, 0x10123001, 0x11123025, 0x14120100, 0x1A912301] : List (BitVec 32)).map decode =
      [none, none, none, none, none, none, none] := by decide
theorem test_decode_illegal_fields_rest :
    ([0x20100000, 0x21180000, 0x26181000, 0x30000140, 0x30100007, 0x31000080] : List (BitVec 32)).map decode =
      [none, none, none, none, none, none] := by decide
/-- The fields' check agrees on an illegal and a legal word. -/
theorem test_fields_of_word :
    ((fieldsOfWord 0x30000140).legal, (fieldsOfWord 0x30000040).legal) = (false, true) := by decide

/-! ## Primitives (table 2.2, command forms) -/

theorem test_rotr32_count_mod_32 :
    shows (·.x[(1 : Reg)]) (exec (.rotr32 1 0 2) (put State.reset [(0, 0xffffffff00000001), (2, 0x0000000100000021)])) =
      some 0x0000000080000000 := by decide
theorem test_rotr32i_ignores_upper_half :
    shows (·.x[(1 : Reg)]) (exec (.rotr32i 1 0 17) (put State.reset [(0, 0xffffffffcc9e2d51)])) =
      some 0x0000000016a8e64f := by decide
theorem test_rotr64 :
    shows (·.x[(8 : Reg)]) (exec (.rotr64 8 7 6) (put State.reset [(7, 0x0123456789abcdef), (6, 37)])) =
      some 0x3c4d5e6f78091a2b := by decide
theorem test_rotr64i_count_mod_64 :
    shows (·.x[(1 : Reg)]) (exec (.rotr64i 1 0 255) (put State.reset [(0, 0x0123456789abcdef)])) =
      some 0x02468acf13579bde := by decide
theorem test_bswap32 :
    shows (·.x[(9 : Reg)]) (exec (.bswap32 9 8) (put State.reset [(8, 0xffffffffa1b2c3d4)])) = some 0xd4c3b2a1 := by decide
theorem test_bswap64 :
    shows (·.x[(3 : Reg)]) (exec (.bswap64 3 2) (put State.reset [(2, 0x0123456789abcdef)])) =
      some 0xefcdab8967452301 := by decide
theorem test_mix32_in_place :
    shows (·.x[(4 : Reg)]) (exec (.mix32 4 4) (put State.reset [(4, 0x12345678)])) = some 0xe37cd1bc := by decide
theorem test_mix64 :
    shows (·.x[(4 : Reg)]) (exec (.mix64 4 3) (put State.reset [(3, 0x0123456789abcdef)])) =
      some 0x0123456789abcfa9 := by decide
theorem test_mur :
    shows (·.x[(5 : Reg)]) (exec (.mur 5 4 6) (put State.reset [(4, 0x12345678), (6, 0x9abcdef0)])) =
      some 0xb459e44d := by decide
theorem test_h128to64 :
    shows (·.x[(7 : Reg)]) (exec (.h128to64 7 6 1) (put State.reset [(6, 1), (1, 2)])) =
      some 0x86668a560ec835a1 := by decide
theorem test_comb :
    shows (·.x[(9 : Reg)]) (exec (.comb 9 1 2 3) (put State.reset [(1, 1), (2, 2), (3, 0x9ae16a3b2f90405f)])) =
      some 0xff61fec4437fb5ec := by decide
/-- R90: a primitive leaves the digest valid. -/
theorem test_mix64_keeps_digest :
    shows State.status (exec (.mix64 2 1) { afterK2 with cancel := true, cond := .bounds }) = some 0x00400002 := by decide

/-! ## The weak pair and message reads (table 2.3) -/

theorem test_weak :
    shows (fun t => (t.x[(6 : Reg)], t.x[(7 : Reg)]))
      (exec .weak (put State.reset [(0, 1), (1, 2), (2, 3), (3, 4), (4, 5), (5, 6)])) =
      some (0xf, 0x0000800000b00006) := by decide
theorem test_weakm :
    shows (fun t => (t.x[(6 : Reg)], t.x[(7 : Reg)]))
      (exec (.weakm 8) (put (onSeq 40) [(8, 8), (4, 0xc3a5c85c97cb3127), (5, 0xb492b66fbe98f273)])) =
      some (0x300e2cbcf4238577, 0xceaefaf24dcdacd3) := by decide
theorem test_weakm_bounds : shows State.status (exec (.weakm 8) (put (onSeq 40) [(8, 9)])) = some 0x30 := by decide
theorem test_ld8_last : shows (·.x[(11 : Reg)]) (exec (.ld8 11 8) (put (onSeq 40) [(8, 39)])) = some 0x27 := by decide
theorem test_ld8_bounds : shows (·.cond) (exec (.ld8 11 8) (put (onSeq 40) [(8, 40)])) = some .bounds := by decide
theorem test_ld32 : shows (·.x[(11 : Reg)]) (exec (.ld32 11 8) (put (onSeq 40) [(8, 36)])) = some 0x27262524 := by decide
theorem test_ld32_bounds : shows (·.cond) (exec (.ld32 11 8) (put (onSeq 40) [(8, 37)])) = some .bounds := by decide
theorem test_ld64_unaligned :
    shows (·.x[(1 : Reg)]) (exec (.ld64 1 8) (put (onSeq 40) [(8, 3)])) = some 0x0a09080706050403 := by decide
theorem test_ld64_sum_does_not_wrap :
    shows (·.cond) (exec (.ld64 1 8) (put (onSeq 40) [(8, 0xffffffffffffffff)])) = some .bounds := by decide

/-! ## Hashes and conditions (tables 2.4 to 2.7) -/

theorem test_hash32_hello :
    shows (fun t => (t.digest0, t.status))
      (exec (.hash 32) { onSeq 5 with mem := [(0x1000, 0x68), (0x1001, 0x65), (0x1002, 0x6c), (0x1003, 0x6c), (0x1004, 0x6f)] }) =
      some (0x79969366, 0x00200002) := by decide
theorem test_hash64_empty :
    shows (fun t => (t.digest0, t.digest1, t.status)) (exec (.hash 64) State.reset) =
      some (0x9ae16a3b2f90404f, 0, 0x00400002) := by decide
/-- X7: the window ends at 2^64. -/
theorem test_hash64_top_of_memory :
    shows (fun t => (t.digest0, t.status))
      (exec (.hash 64) { onSeq 16 with base := 0xfffffffffffffff0, mem := seqMem 0xfffffffffffffff0 16 }) =
      some (0x0efd25a0a34156d4, 0x00400002) := by decide
theorem test_hash128s_seq5 :
    shows (fun t => (t.digest0, t.digest1)) (exec .hash128s (put (onSeq 5) [(0, 1), (1, 2)])) =
      some (0x00990aadfbd3eb5a, 0x47ae7e8bb504b09e) := by decide
/-- The trace of `seq(45)` in table 2.4, start step. -/
theorem test_hash32_start :
    shows (fun t => (t.status, t.cnt, t.work.h, t.work.g, t.work.f)) (exec (.hash 32) (onSeq 45)) =
      some (0x00000101, 2, 0x0455da32, 0x974585d5, 0xd735a963) := by decide
/-- The trace of `seq(45)`, first loop step. -/
theorem test_loop32 :
    shows (fun t => (t.pos, t.cnt, t.work.h, t.work.g, t.work.f))
      (step { running .m32 45 0 2 0 0 .loop with
              work := { Work.zero with h := 0x0455da32, g := 0x974585d5, f := 0xd735a963 } }) =
      some (20, 1, 0x2aed2b9c, 0x0b990a4e, 0x510c9e9c) := by decide
/-- P3's finish step: `seq(65)` at width 64. -/
theorem test_fin64 :
    shows (fun t => (t.digest0, t.status))
      (step { running .m64 65 64 0 0 0 .fin with
              work := { Work.zero with
                        x := 0xeb3febd9cb8a8bf4, y := 0x282ddfe1684e3b27, z := 0xbd0fe24d0f6cd30c
                        v0 := 0x76deac4c35771117, v1 := 0x022979bafdb5d921
                        w0 := 0xb5ca0b2771aff3b4, w1 := 0x8e076f5bcccead55 } }) =
      some (0xac589c990483dd2e, 0x00400002) := by decide
/-- X15: `MODE`, `POS` and `CNT` after the start step of `HASH 128` (here 180 bytes, P4). -/
theorem test_hash128_start :
    shows (fun t => (t.status, t.pos, t.cnt, t.work.mlen)) (exec (.hash 128) (onSeq 180)) =
      some (0x00000901, 16, 1, 164) := by decide
/-- The trace of `seq(50)` at width 128, second loop step. -/
theorem test_loopCm :
    shows (fun t => (t.status, t.work.a, t.work.b, t.work.c, t.work.d))
      (step { running .mcm 50 32 1 16 34 .loop with
              work := { Work.zero with
                        a := 0xe438c121105d80cb, b := 0x368b1449b288bae4, c := 0xc0bcc44898926fe8
                        d := 0xdac4ad67c6a16248, soff := 16, mlen := 34 } }) =
      some (0x00000e01, 0xee54c4980ab0f751, 0xd8dfd0d1b8384db5, 0x6cd4940ea73ee78e, 0xb6103969619f85c6) := by decide
/-- The trace of `seq(130)` in table 2.5, second loop step. -/
theorem test_loop64 :
    shows (fun t => (t.status, t.pos, t.work.x, t.work.y, t.work.z, t.work.v0, t.work.v1))
      (step { running .m64 130 64 1 0 0 .loop with
              work := { Work.zero with
                        x := 0x76c9caf8b878be83, y := 0x09aa2d3c683833fa, z := 0x5db2b8d268c792d0
                        v0 := 0xcd76483c685d6cdf, v1 := 0x5cdcd006fcf18702
                        w0 := 0x9bae3ca0b8e8809c, w1 := 0x9fadea98e67c3ab9 } }) =
      some (0x00000601, 128, 0x18669eee0322031b, 0x143fb9be6abb049b, 0xfe94e455f1167c4e, 0x3edbbafad488bf16,
        0x6bcb8f78084a49fa) := by decide
/-- P5: the loop step of `seq(128)` under `HASH128S`. -/
theorem test_loop128 :
    shows (fun t => (t.status, t.work.x, t.work.y, t.work.z, t.work.v0, t.work.w1))
      (step { running .m128 128 0 1 0 128 .loop with
              work := { Work.zero with
                        x := 1, y := 2, z := 0x495b37df4c793980, v0 := 0xf60e5660ff3d11cb, v1 := 0x8a1547490fc6fef7
                        w0 := 0x258200e454e088c2, w1 := 0x61262d047569824e, soff := 0, mlen := 128 } }) =
      some (0x00000a01, 0xabfd57d0c481dfdc, 0xf68f45d3985bb5e4, 0xaa4a471c4d58b3fb, 0x885a4bfa6c3da278,
        0x63b787b0744f10cf) := by decide
/-- P4: the finish step of `seq(180)` at width 128, two tail chunks. -/
theorem test_fin128 :
    shows (fun t => (t.digest0, t.digest1, t.status))
      (step { running .m128 180 144 0 16 164 .fin with
              work := { Work.zero with
                        x := 0x4ab6f4658193601f, y := 0xf0c0b7fd32278373, z := 0xe425ad382cd9bc29
                        v0 := 0x9f3c562d26fa0772, v1 := 0x5e427d1a95aa7c5b, w0 := 0x9385b930942b8a03
                        w1 := 0x7ad1a9d84ff0ce4a, soff := 16, mlen := 164 } }) =
      some (0xfffaf9ad2ef42aeb, 0xc9ccc4b73ae4590b, 0x00800002) := by decide +kernel
/-- The trace of `seq(50)` at width 128, finish step. -/
theorem test_finCm :
    shows (fun t => (t.digest0, t.digest1))
      (step { running .mcm 50 48 0 16 34 .fin with
              work := { Work.zero with
                        a := 0xee54c4980ab0f751, b := 0xd8dfd0d1b8384db5, c := 0x6cd4940ea73ee78e
                        d := 0xb6103969619f85c6, soff := 16, mlen := 34 } }) =
      some (0xd1a38e8084783efc, 0xbbd092f6b3791696) := by decide
/-- X13: a loop step that sees `CANCEL = 1`. -/
theorem test_loop_cancelled :
    shows State.status (step { running .m32 45 0 2 0 0 .loop with cancel := true }) = some 0x20 := by decide
/-- X3, X5, X6: width before cancellation before bounds. -/
theorem test_hash_priority :
    let s : State := { State.reset with cancel := true, base := 0xfffffffffffffff0, len := 17 }
    (shows State.status (exec (.hash 7) s), shows State.status (exec (.hash 64) s),
      shows State.status (exec (.hash 64) { s with cancel := false })) = (some 0x10, some 0x20, some 0x30) := by decide
/-- X4: a rejected width clears `DV` and `DW`; the old bits remain. -/
theorem test_hash96 :
    shows (fun t => (t.status, t.digest0)) (exec (.hash 96) afterK2) = some (0x10, 0x9ae16a3b2f90404f) := by decide
/-- X16: an illegal word changes only `COND`. -/
theorem test_illegal_command :
    shows State.status (step (afterK2.withFetchWord 32 0x02000000)) = some 0x00400042 := by decide
/-- X17. -/
theorem test_nop : shows State.status (step ({ afterK2 with cond := .illegalCmd }.withFetchWord 32 0)) = some 0x00400002 := by
  decide
/-- X21. -/
theorem test_sreset :
    shows (fun t => (t.ctrl, t.base, t.len, t.digest0, t.status))
      (exec .sreset { afterK2 with cancel := true, base := 0x1000, len := 5 }) = some (0, 0, 0, 0, 0) := by decide
/-- R37: bits 63:32 of a write to `CMD` are ignored. -/
theorem test_cmd_upper_half :
    shows (·.digest0) (step { State.reset with host := [.busWrite 0x80 64 0xdeadbeef30000040] }) =
      some 0x9ae16a3b2f90404f := by decide
/-- X22: while busy a write of `LEN` is held and the sequencer moves; a write of `CTRL` is not. -/
theorem test_held_write :
    shows (fun t => (t.len, t.host, t.pos)) (step { running .m32 45 0 2 0 0 .loop with host := [.busWrite 0xA0 64 7] }) =
      some (45, [.busWrite 0xA0 64 7], 20) := by decide
theorem test_ctrl_write_while_busy :
    shows (fun t => (t.cancel, t.host, t.pos)) (step { running .m32 45 0 2 0 0 .loop with host := [.busWrite 0x90 64 3] }) =
      some (true, [], 0) := by decide
/-- S8: the byte form of `K2`. -/
theorem test_digest_bytes : afterK2.digestBytes = [0x4f, 0x40, 0x90, 0x2f, 0x3b, 0x6a, 0xe1, 0x9a] := by decide

/-! ## Witnesses: the hypotheses of each obligation can be met -/

/-- A hash of `seq(45)` at width 32 in its loop, first group next (table 2.4's trace), the host with no move. -/
def loop45 : State := running .m32 45 0 2 0 0 .loop
/-- The same hash at its finish step. -/
def fin45 : State := running .m32 45 40 0 0 0 .fin
/-- A memory that differs from `seq(n)`'s only outside the window. -/
def otherMem (n : Nat) : Memory := (0xfff, 7) :: seqMem 0x1000 n
/-- A window that wraps by one byte. -/
def wrapped : State := { State.reset with base := 0xfffffffffffffff0, len := 17 }

theorem witness_DecodeInvertsEncode : (Instr.comb 9 1 2 3).wellFormed = true := by decide
theorem witness_EncodeInvertsDecode : decode 0x1A912300 = some (.comb 9 1 2 3) := by decide
theorem witness_WordDecodesExactlyWhenItSelectsARow :
    (Row.mk "COMB" 0x1A000000 0xFF0000FF) ∈ opcodeTable ∧ (Row.mk "COMB" 0x1A000000 0xFF0000FF).selects 0x1A912300 = true := by
  decide
theorem witness_StepRunsTheDecodedCommand :
    State.reset.phase = .idle ∧
      ({ State.reset with host := [.busWrite 0x80 64 0xdeadbeef30000040] } : State).host =
        .busWrite 0x80 64 0xdeadbeef30000040 :: [] ∧
      decode ((0xdeadbeef30000040 : Word).extractLsb' 0 32) = some (.hash 64) ∧ decode 0x30000040 = some (.hash 64) := by decide
theorem witness_IllegalWordOnlySetsTheCondition :
    afterK2.phase = .idle ∧
      ({ afterK2 with host := [.busWrite 0x80 64 0x02000000] } : State).host = .busWrite 0x80 64 0x02000000 :: [] ∧
      decode ((0x02000000 : Word).extractLsb' 0 32) = none := by decide
theorem witness_PrimitivesWriteOnlyTheirDestination : (Instr.mix32 4 4).primitiveDest = some 4 := by decide
/-- R98: `0x00007fffffffffff` is the largest value that `mix64` leaves unchanged. -/
theorem witness_Mix64FoldsTheTopBits :
    ((put State.reset [(3, 0x00007fffffffffff)]).operand 0 3).toNat < 2 ^ 47 ∧
      mix64 0x00007fffffffffff = 0x00007fffffffffff ∧ mix64 0x0000800000000000 = 0x0000800000000001 := by decide
/-- `8 + 32 = 40` is inside `seq(40)`, `9 + 32` is not. -/
theorem witness_WeakmReadsFourWordsOrRaises :
    ReadsInside (put (onSeq 40) [(8, 8)]) ((put (onSeq 40) [(8, 8)]).operand 0 8) 32 ∧
      ¬ ReadsInside (put (onSeq 40) [(8, 9)]) ((put (onSeq 40) [(8, 9)]).operand 0 8) 32 := by
  unfold ReadsInside; decide
/-- The last byte, word and double word of `seq(40)`, and one byte further. -/
theorem witness_LoadsAssembleLittleEndian :
    (∀ k ∈ [(1, 40), (4, 37), (8, 33)],
      ¬ ReadsInside (put (onSeq 40) [(8, BitVec.ofNat 64 k.2)]) ((put (onSeq 40) [(8, BitVec.ofNat 64 k.2)]).operand 0 8) k.1) ∧
    ReadsInside (put (onSeq 40) [(8, 39)]) ((put (onSeq 40) [(8, 39)]).operand 0 8) 1 ∧
      ReadsInside (put (onSeq 40) [(8, 36)]) ((put (onSeq 40) [(8, 36)]).operand 0 8) 4 ∧
      ReadsInside (put (onSeq 40) [(8, 32)]) ((put (onSeq 40) [(8, 32)]).operand 0 8) 8 := by
  unfold ReadsInside; decide
/-- One byte past `seq(40)`, and a window that wraps. -/
theorem witness_ReadsOutsideTheMessageRaiseBounds :
    (Instr.ld64 1 8).messageRead = some (8, 8) ∧
      ¬ ReadsInside (put (onSeq 40) [(8, 33)]) ((put (onSeq 40) [(8, 33)]).operand 0 8) 8 ∧
      ¬ ReadsInside (put wrapped [(8, 0)]) ((put wrapped [(8, 0)]).operand 0 8) 8 := by
  unfold ReadsInside; decide
/-- The last addresses at which a word and a double word lie below 2^64. -/
theorem witness_WordReadsAreLittleEndian :
    (0xfffffffffffffffc : Word).toNat + 4 ≤ 2 ^ 64 ∧ (0xfffffffffffffff8 : Word).toNat + 8 ≤ 2 ^ 64 ∧
      (memRead8 (seqMem 0x1000 5) 0x1001 = 1 ∧ memRead8 (seqMem 0x1000 5) (0x1001 + 1) = 2 ∧
        memRead8 (seqMem 0x1000 5) (0x1001 + 2) = 3 ∧ memRead8 (seqMem 0x1000 5) (0x1001 + 3) = 4) := by decide
theorem witness_ResetsGiveTheListedValues : ({ loop45 with host := [.reset] } : State).host = .reset :: [] := by decide
theorem witness_UnsupportedWidthIsRejectedFirst :
    ((16 : BitVec 8) ≠ 32 ∧ (16 : BitVec 8) ≠ 64 ∧ (16 : BitVec 8) ≠ 128) ∧
      (Instr.hash 128 = .hash 32 ∨ Instr.hash 128 = .hash 64 ∨ Instr.hash 128 = .hash 128 ∨ Instr.hash 128 = .hash128s) := by
  decide
/-- X5 and X6, and the first length that wraps. -/
theorem witness_CancellationThenBoundsAtTheTop :
    (Instr.hash128s = .hash 32 ∨ Instr.hash128s = .hash 64 ∨ Instr.hash128s = .hash 128 ∨ Instr.hash128s = .hash128s) ∧
      ({ wrapped with cancel := true } : State).cancel = true ∧ wrapped.cancel = false ∧
      2 ^ 64 < wrapped.base.toNat + wrapped.len.toNat := by decide
/-- X7: a window that ends at 2^64. -/
theorem witness_StartStepFollowsTheBuckets :
    ({ wrapped with len := 16 } : State).cancel = false ∧
      ({ wrapped with len := 16 } : State).base.toNat + ({ wrapped with len := 16 } : State).len.toNat ≤ 2 ^ 64 := by decide
/-- The plans at the bucket boundaries (X13 to X15, R120, R140, R162). -/
theorem witness_StartStepFollowsTheBuckets_plans :
    [hashPlan 32 .ref 24, hashPlan 32 .ref 40, hashPlan 32 .literal 40, hashPlan 64 .ref 64, hashPlan 64 .ref 65] =
        [none, some (.m32, 0, 1), some (.m32, 0, 2), none, some (.m64, 0, 1)] ∧
      [hashPlan 128 .ref 15, hashPlan 128 .ref 32, hashPlan 128 .ref 33, hashPlan 128 .ref 143, hashPlan 128 .ref 144] =
        [none, none, some (.mcm, 16, 1), some (.mcm, 16, 7), some (.m128, 16, 1)] ∧
      [hashPlan 32 .ref 10001, hashPlan 64 .ref 10001, hashPlan 128 .ref 10001] =
        [some (.m32, 0, 500), some (.m64, 0, 156), some (.m128, 16, 78)] := by decide
theorem witness_Hash32RunDeliversTheDigest :
    (onSeq 45).cancel = false ∧ (onSeq 45).base.toNat + (onSeq 45).len.toNat ≤ 2 ^ 64 ∧ (onSeq 45).host = [] := by decide
theorem witness_Hash64RunDeliversTheDigest :
    (onSeq 65).cancel = false ∧ (onSeq 65).base.toNat + (onSeq 65).len.toNat ≤ 2 ^ 64 ∧ (onSeq 65).host = [] := by decide
theorem witness_Hash128RunsDeliverTheDigest :
    (onSeq 180).cancel = false ∧ (onSeq 180).base.toNat + (onSeq 180).len.toNat ≤ 2 ^ 64 ∧ (onSeq 180).host = [] := by decide
theorem witness_Hash128IsTheSeededHash : 16 ≤ (16 : Word).toNat ∧ (15 : Word).toNat < 16 := by decide
theorem witness_EveryHashTerminates :
    loop45.phase = .loop ∧ 1 ≤ loop45.cnt.toNat ∧ loop45.host = [] ∧ loop45.cancel = false ∧
      ({ loop45 with cancel := true } : State).cancel = true := by decide

/-- A running loop meets the invariant. -/
theorem loop45_inv : loop45.Inv :=
  ⟨by decide, by decide, by decide, by decide, by decide, by decide, fun _ => by show 25 ≤ _; decide,
    fun _ => by show 0 + 20 * 2 = 0 + 20 * ((45 - 1) / 20); decide, by decide, by decide⟩
/-- So does a body of 34 bytes in the `MCM` loop (`seq(50)` at width 128, after its first group). -/
theorem loop50_inv : (running .mcm 50 32 1 16 34 .loop).Inv :=
  ⟨by decide, by decide, by decide, by decide, by decide, by decide,
    fun _ => ⟨by decide, by decide, .inr rfl, by decide⟩,
    fun _ => by show 32 + 16 * 1 = 16 + 16 * ((34 - 1) / 16); decide, by decide, by decide⟩

theorem witness_IterationsLeftAreBounded : loop45.Inv ∧ loop45.phase = .loop := ⟨loop45_inv, by decide⟩
theorem witness_CancellationEndsTheLoopOnly :
    ({ loop45 with cancel := true } : State).phase = .loop ∧ ({ loop45 with cancel := true } : State).cancel = true ∧
      ({ loop45 with cancel := true } : State).host = [] ∧ fin45.phase = .fin ∧ fin45.host = [] := by decide
theorem witness_CancelIsTheHostsAlone :
    shows (·.cancel) (step { loop45 with host := [.busWrite 0x90 64 1] }) = some true ∧
      shows (·.cancel) (step { loop45 with cancel := true, host := [.reset] }) = some false ∧
      shows (·.cancel) (step ({ afterK2 with cancel := true }.withFetchWord 32 0x01000000)) = some false ∧
      shows (·.cancel) (step loop45) = some false := by decide
theorem witness_OnlyTheHostWritesMemory :
    loop45.host = [] ∧ shows (·.mem) (step { State.reset with host := [.memWrite 5 7] }) = some [(5, 7)] ∧
      shows (·.mem) (step loop45) = some loop45.mem := by decide
/-- At the last address of the space. -/
theorem witness_HostMemoryWriteChangesOneByte :
    loop45.mem.wf ∧
      ({ loop45 with host := [.memWrite 0xffffffffffffffff 7] } : State).host = .memWrite 0xffffffffffffffff 7 :: [] := by
  decide

theorem otherMem_sameWindow (n : Nat) : SameWindow (onSeq n) (otherMem n) := by
  intro a ha _
  have hb : 0x1000 ≤ a := ha
  rw [otherMem, Memory.read_cons, if_neg (by omega)]
  rfl

theorem witness_CommandsReadOnlyTheWindow :
    SameWindow (onSeq 40) (otherMem 40) ∧ otherMem 40 ≠ (onSeq 40).mem := ⟨otherMem_sameWindow 40, by decide⟩
theorem witness_LoopAndFinishReadOnlyTheWindow :
    loop45.Inv ∧ loop45.host = [] ∧ SameWindow loop45 (otherMem 45) ∧ otherMem 45 ≠ loop45.mem :=
  ⟨loop45_inv, by decide, otherMem_sameWindow 45, by decide⟩
theorem witness_CourseIsIndependentOfTheData : loop45.host = [] := by decide
/-- One state for each width. -/
theorem witness_BrokenDutyLeavesTheDigestOpen :
    [.m32, .m64, .m128, .mcm].map (fun m => ({ fin45 with mode := m, dutyBroken := true } : State).mode) =
        [.m32, .m64, .m128, .mcm] ∧
      ∀ m, ({ fin45 with mode := m, dutyBroken := true } : State).phase = .fin ∧
        ({ fin45 with mode := m, dutyBroken := true } : State).host = [] ∧
        ({ fin45 with mode := m, dutyBroken := true } : State).dutyBroken = true :=
  ⟨by decide, fun _ => ⟨rfl, rfl, rfl⟩⟩
theorem witness_StatusShowsTheState :
    ({ loop45 with host := [.busWrite 0x88 64 1] } : State).host = .busWrite 0x88 64 1 :: [] ∧
      ({ loop45 with host := [.busRead 0x88 64] } : State).host = .busRead 0x88 64 :: [] ∧ loop45.status = 0x101 := by decide
theorem witness_DigestBytesAreLittleEndian :
    ({ afterK2 with dw := 128 } : State).dw.toNat ≤ 128 ∧ 15 < ({ afterK2 with dw := 128 } : State).dw.toNat / 8 ∧
      ({ afterK2 with dw := 32, digest0 := 0xdc56d17a } : State).dw = 32 ∧
      ({ afterK2 with dw := 32, digest0 := 0xdc56d17a } : State).digest0 = 0xdc56d17a := by decide
/-- The first and last registers of the map, the last operand register, and the three kinds of access outside it. -/
theorem witness_BusReadsReturnTheRegister :
    (0x80, (0 : Word)) ∈ readMap loop45 ∧ (0xB0, (0 : Word)) ∈ readMap loop45 ∧
      ({ loop45 with host := [.busRead 0xB0 64] } : State).host = .busRead 0xB0 64 :: [] ∧
      ({ loop45 with host := [.busRead 0x78 64] } : State).host = .busRead (8 * (15 : Reg).val) 64 :: [] ∧
      outsideMap 0xB8 64 ∧ outsideMap 0xB0 32 ∧ outsideMap 0x81 64 ∧
      ({ loop45 with host := [.busRead 0xB8 64] } : State).host = .busRead 0xB8 64 :: [] ∧
      ({ loop45 with host := [.busWrite 0xB0 32 1] } : State).host = .busWrite 0xB0 32 1 :: [] := by
  unfold outsideMap; decide
theorem witness_BusWritesReachTheRegister :
    State.reset.phase = .idle ∧
      ({ State.reset with host := [.busWrite 0x78 64 1] } : State).host = .busWrite (8 * (15 : Reg).val) 64 1 :: [] ∧
      ({ State.reset with host := [.busWrite 0x98 64 1] } : State).host = .busWrite 0x98 64 1 :: [] ∧
      ({ State.reset with host := [.busWrite 0xA0 64 1] } : State).host = .busWrite 0xA0 64 1 :: [] ∧
      ({ loop45 with host := [.busWrite 0x90 64 1] } : State).host = .busWrite 0x90 64 1 :: [] ∧
      ({ loop45 with host := [.busWrite 0xA8 64 1] } : State).host = .busWrite 0xA8 64 1 :: [] := by decide
theorem witness_WritesAreHeldWhileBusy :
    loop45.phase ≠ .idle ∧ idleOnly 0x78 ∧ idleOnly 0x80 ∧ idleOnly 0x98 ∧ idleOnly 0xA0 ∧
      ({ loop45 with host := [.busWrite 0xA0 64 7] } : State).host = .busWrite 0xA0 64 7 :: [] := by
  refine ⟨by decide, .inl ⟨15, by decide⟩, .inr (.inl rfl), .inr (.inr (.inl rfl)), .inr (.inr (.inr rfl)), by decide⟩
theorem witness_OperandRegistersChangeOnlyAsListed :
    shows (·.x[(15 : Reg)]) (step { State.reset with host := [.busWrite 0x78 64 9] }) = some 9 ∧
      shows (·.x[(15 : Reg)]) (step loop45) = some 0 ∧
      shows (·.written[(15 : Reg)]) (step { put State.reset [(15, 9)] with host := [.reset] }) = some false := by decide
theorem witness_OnlyReservedAccessesAreRefused :
    outsideMap 0xB8 64 ∧
      (match step { loop45 with host := [.busRead 0xB8 64] } with | .refused .noSuchRegister => true | _ => false) = true := by
  unfold outsideMap; decide
theorem witness_EveryStepKeepsTheInvariant : loop45.Inv ∧ shows (·.pos) (step loop45) = some 20 := ⟨loop45_inv, by decide⟩
theorem witness_GroupsLieInsideTheMessage :
    (loop45.Inv ∧ loop45.phase = .loop ∧ loop45.cancel = false ∧ loop45.host = []) ∧
      ((running .mcm 50 32 1 16 34 .loop).Inv ∧ (running .mcm 50 32 1 16 34 .loop).phase = .loop) :=
  ⟨⟨loop45_inv, by decide, by decide, by decide⟩, loop50_inv, by decide⟩
/-- Every kind of quiet move: a read, a held write, a cleared `CTRL`, the byte after the window, a turn left to the sequencer. -/
theorem witness_HashesRunBesideTheHost :
    (onSeq 45).cancel = false ∧ (onSeq 45).base.toNat + (onSeq 45).len.toNat ≤ 2 ^ 64 ∧
      ∀ mv ∈ [HostMove.busRead 0x88 64, .busWrite 0x90 64 2, .memWrite 0x102d 7, .run, .busWrite 0xB0 64 1,
        .busWrite 0xA0 64 9],
        QuietMove { onSeq 45 with
          host := [.busRead 0x88 64, .busWrite 0x90 64 2, .memWrite 0x102d 7, .run, .busWrite 0xB0 64 1,
            .busWrite 0xA0 64 9] } mv := by
  refine ⟨by decide, by decide, ?_⟩
  simp only [List.mem_cons, List.not_mem_nil, or_false, forall_eq_or_imp, forall_eq, QuietMove, outsideMap]
  decide

end Sys2Proof.Tests
end

section
/-! The host's side as equations (spec/10_state.md R37 to R39, R193): the register map by offset, one step per kind of
bus access, and what a command does to the operand registers. -/

namespace Sys2Proof.Machine

/-! ### The register map -/

theorem busReg_operand (i : Reg) : busReg (8 * i.val) 64 = some (.x i) := by
  have hi := i.isLt
  have hdiv : 8 * i.val / 8 = i.val := Nat.mul_div_cancel_left _ (by omega)
  simp [busReg, hdiv, hi]

/-- The interface ends exactly where R39 says. -/
theorem busReg_eq_none_iff (off width : Nat) : busReg off width = none ↔ outsideMap off width := by
  unfold busReg outsideMap
  split_ifs <;> simp <;> omega

theorem offset_of_busReg_operand {off width : Nat} {i : Reg} (h : busReg off width = some (.x i)) :
    off = 8 * i.val ∧ width = 64 := by
  obtain ⟨hw, hoff⟩ := busReg_cases h
  exact ⟨by simpa using hoff, hw⟩

theorem offset_of_busReg_cmd {off width : Nat} (h : busReg off width = some .cmd) : off = 0x80 ∧ width = 64 := by
  obtain ⟨hw, hoff⟩ := busReg_cases h
  exact ⟨by simpa using hoff, hw⟩

/-- A read of an offset of the register map, operand registers apart, returns what the map lists there. -/
theorem busReg_of_mem_readMap {s : State} {off : Nat} {v : Word} (h : (off, v) ∈ readMap s) :
    ∃ r, busReg off 64 = some r ∧ s.busValue r = v := by
  simp only [readMap, List.mem_cons, List.not_mem_nil, or_false, Prod.mk.injEq] at h
  rcases h with ⟨rfl, rfl⟩ | ⟨rfl, rfl⟩ | ⟨rfl, rfl⟩ | ⟨rfl, rfl⟩ | ⟨rfl, rfl⟩ | ⟨rfl, rfl⟩ | ⟨rfl, rfl⟩
  · exact ⟨.cmd, rfl, rfl⟩
  · exact ⟨.status, rfl, rfl⟩
  · refine ⟨.ctrl, rfl, ?_⟩
    cases hc : s.cancel <;> simp [State.busValue, State.ctrl, hc]
  · exact ⟨.base, rfl, rfl⟩
  · exact ⟨.len, rfl, rfl⟩
  · exact ⟨.digest0, rfl, rfl⟩
  · exact ⟨.digest1, rfl, rfl⟩

/-! ### One step by the host's next move -/

section
variable {s : State} {off width : Nat} {d : Word} {rest : List HostMove} {r : BusReg}

theorem State.whenIdle_of_idle (hp : s.phase = .idle) (t : Turn) : s.whenIdle t = t := by
  simp [State.whenIdle, State.busy_eq, hp]

theorem step_of_busRead (hh : s.host = .busRead off width :: rest) (hr : busReg off width = some r) :
    step s = .next { s.tick with host := rest, busData := s.busValue r } := by
  simp [step, turn, hh, hr]

theorem step_of_busRead_outside (hh : s.host = .busRead off width :: rest) (ho : outsideMap off width) :
    step s = .refused .noSuchRegister := by
  simp [step, turn, hh, (busReg_eq_none_iff _ _).mpr ho]

theorem step_of_busWrite_outside (hh : s.host = .busWrite off width d :: rest) (ho : outsideMap off width) :
    step s = .refused .noSuchRegister := by
  simp [step, turn, hh, (busReg_eq_none_iff _ _).mpr ho]

theorem turn_of_busWrite (hh : s.host = .busWrite off width d :: rest) (hr : busReg off width = some r) :
    turn s = s.busWrite r d rest := by
  simp [turn, hh, hr]

theorem step_of_turn_done {t : State} (h : turn s = .done t) : step s = .next t := by
  simp [step, h]

theorem step_of_write_operand {i : Reg} (hp : s.phase = .idle) (hh : s.host = .busWrite (8 * i.val) 64 d :: rest) :
    step s = .next (State.setX { s with host := rest } i d) :=
  step_of_turn_done (by rw [turn_of_busWrite hh (busReg_operand i), State.busWrite, State.whenIdle_of_idle hp])

theorem step_of_write_cmd (hp : s.phase = .idle) (hh : s.host = .busWrite 0x80 64 d :: rest) :
    step s = commandStep (trunc32 d) { s with host := rest } := by
  rw [step, turn_of_busWrite (r := .cmd) hh rfl, State.busWrite, State.whenIdle_of_idle hp]

theorem step_of_write_status (hh : s.host = .busWrite 0x88 64 d :: rest) : step s = .next { s with host := rest } :=
  step_of_turn_done (turn_of_busWrite (r := .status) hh rfl)

theorem step_of_write_ctrl (hh : s.host = .busWrite 0x90 64 d :: rest) :
    step s = .next { s with host := rest, cancel := d.getLsbD 0 } :=
  step_of_turn_done (turn_of_busWrite (r := .ctrl) hh rfl)

theorem step_of_write_base (hp : s.phase = .idle) (hh : s.host = .busWrite 0x98 64 d :: rest) :
    step s = .next { s with host := rest, base := d } :=
  step_of_turn_done (by rw [turn_of_busWrite (r := .base) hh rfl, State.busWrite, State.whenIdle_of_idle hp])

theorem step_of_write_len (hp : s.phase = .idle) (hh : s.host = .busWrite 0xA0 64 d :: rest) :
    step s = .next { s with host := rest, len := d } :=
  step_of_turn_done (by rw [turn_of_busWrite (r := .len) hh rfl, State.busWrite, State.whenIdle_of_idle hp])

theorem step_of_write_digest0 (hh : s.host = .busWrite 0xA8 64 d :: rest) : step s = .next { s with host := rest } :=
  step_of_turn_done (turn_of_busWrite (r := .digest0) hh rfl)

theorem step_of_write_digest1 (hh : s.host = .busWrite 0xB0 64 d :: rest) : step s = .next { s with host := rest } :=
  step_of_turn_done (turn_of_busWrite (r := .digest1) hh rfl)

end

/-! ### Commands -/

/-- `CMD` takes bits 31:0 of the value written (R37). -/
theorem trunc32_eq_extractLsb' (d : Word) : trunc32 d = d.extractLsb' 0 32 :=
  BitVec.setWidth_eq_extractLsb' (by omega)

theorem commandStep_of_decode {w : BitVec 32} {i : Instr} (h : decode w = some i) (s : State) :
    commandStep w s = exec i s := by
  simp [commandStep, h]

theorem commandStep_of_illegal {w : BitVec 32} (h : decode w = none) (s : State) :
    commandStep w s = .next (s.raise .illegalCmd) := by
  simp [commandStep, h, State.illegalCommand]

/-- Every command answers a next state (R186). -/
theorem exec_next (i : Instr) (s : State) : ∃ t, exec i s = .next t := by
  rcases exec_cases i s with ⟨_, _, -, h⟩ | ⟨_, -, h⟩ | h | ⟨-, h⟩ | ⟨-, h⟩ | ⟨-, _, h⟩ | ⟨-, _, -, h⟩ <;> exact ⟨_, h⟩

theorem commandStep_next (w : BitVec 32) (s : State) : ∃ t, commandStep w s = .next t := by
  cases hd : decode w with
  | none => exact ⟨_, commandStep_of_illegal hd s⟩
  | some i => rw [commandStep_of_decode hd]; exact exec_next i s

/-- The operand register `i` keeps its bits, and whether it counts as written. -/
def SameOperand (i : Reg) (s t : State) : Prop := t.x[i] = s.x[i] ∧ t.written[i] = s.written[i]

theorem sameOperand_setX_of_ne (s : State) {i j : Reg} (v : Word) (h : i ≠ j) : SameOperand j s (s.setX i v) := by
  obtain ⟨hx, hw⟩ := State.setX_get s i j v
  exact ⟨by rw [hx, if_neg h], by rw [hw, if_neg h]⟩

theorem sameOperandsBut_setX (s : State) (i : Reg) (v : Word) : SameOperandsBut [i] s (s.setX i v) :=
  fun _ hj => sameOperand_setX_of_ne s v fun h => hj (by simp [h])

theorem sameOperand_of_startEnd {s t : State} (h : StartEnd s t) (i : Reg) : SameOperand i s t := by
  rcases h with ⟨_, _, _, rfl⟩ | ⟨_, _, _, _, rfl⟩ <;> exact ⟨rfl, rfl⟩

/-- What a command does to an operand register: it keeps it, names it as a destination, or is `SRESET` (R23, R24, R191). -/
theorem exec_operand {c : Instr} {s t : State} (h : exec c s = .next t) (i : Reg) :
    SameOperand i s t ∨ i ∈ c.dests ∨ (c = .sreset ∧ t.x[i] = s.x[i] ∧ t.written[i] = false) := by
  rcases exec_cases c s with ⟨rd, v, hd, e⟩ | ⟨p, hd, e⟩ | e | ⟨rfl, e⟩ | ⟨rfl, e⟩ | ⟨-, _, e⟩ | ⟨-, u, hu, e⟩ <;>
    cases e.symm.trans h
  · by_cases hi : rd = i
    · exact .inr (.inl (by simp [hd, hi]))
    · exact .inl (sameOperand_setX_of_ne s v hi)
  · by_cases h7 : 7 = i
    · exact .inr (.inl (by simp [hd, h7]))
    · by_cases h6 : 6 = i
      · exact .inr (.inl (by simp [hd, h6]))
      · obtain ⟨hx, hw⟩ := sameOperand_setX_of_ne s p.first h6
        obtain ⟨hx', hw'⟩ := sameOperand_setX_of_ne (s.setX 6 p.first) p.second h7
        exact .inl ⟨hx'.trans hx, hw'.trans hw⟩
  · exact .inl ⟨rfl, rfl⟩
  · exact .inl ⟨rfl, rfl⟩
  · exact .inr (.inr ⟨rfl, rfl, by simp⟩)
  · exact .inl ⟨rfl, rfl⟩
  · exact .inl (sameOperand_of_startEnd hu i)

theorem commandStep_operand {w : BitVec 32} {s t : State} (h : commandStep w s = .next t) (i : Reg) :
    SameOperand i s t ∨
      ∃ c, decode w = some c ∧ (i ∈ c.dests ∨ (c = .sreset ∧ t.x[i] = s.x[i] ∧ t.written[i] = false)) := by
  cases hd : decode w with
  | none =>
    cases (commandStep_of_illegal hd s).symm.trans h
    exact .inl ⟨rfl, rfl⟩
  | some c =>
    rw [commandStep_of_decode hd] at h
    exact (exec_operand h i).imp_right fun hc => ⟨c, rfl, hc⟩

theorem sameOperand_sequencerStep (s : State) (i : Reg) : SameOperand i s (sequencerStep s) := by
  obtain ⟨-, -, -, -, hx, hw, -⟩ := sequencerStep_frame s
  exact ⟨by rw [hx], by rw [hw]⟩

/-! ### The command step and the bus: the statements -/

/-- Settles O5: the write's turn is the command step of its low half, and `withFetchWord` makes such a write. -/
theorem stepRunsTheDecodedCommand : Obligations.StepRunsTheDecodedCommand := by
  refine ⟨fun s d rest i hp hh hd => ?_, fun s w i hd => ?_⟩
  · rw [step_of_write_cmd hp hh, trunc32_eq_extractLsb', commandStep_of_decode hd]
  · have hw : trunc32 ((BitVec.ofNat 32 (w.toNat % 2 ^ 32)).setWidth 64) = w := by
      simp [trunc32, Nat.mod_eq_of_lt w.isLt]
    rw [State.withFetchWord, step_of_write_cmd (s := s.presentCommand _) rfl rfl, hw, commandStep_of_decode hd]
    rfl

/-- Settles O44: the offsets of the map by `busReg_of_mem_readMap`, the rest of the interface by `busReg_eq_none_iff`. -/
theorem busReadsReturnTheRegister : Obligations.BusReadsReturnTheRegister := by
  refine fun s rest => ⟨fun off v hv hh => ?_, fun i hh => ?_, fun off width ho hh => ?_, fun off width d ho hh => ?_⟩
  · obtain ⟨r, hr, rfl⟩ := busReg_of_mem_readMap hv
    exact step_of_busRead hh hr
  · exact step_of_busRead hh (busReg_operand i)
  · exact step_of_busRead_outside hh ho
  · exact step_of_busWrite_outside hh ho

/-- Settles O45: one step equation per register written. -/
theorem busWritesReachTheRegister : Obligations.BusWritesReachTheRegister := by
  refine fun s d rest => ⟨fun hp i hh => ?_, step_of_write_base, step_of_write_len, step_of_write_ctrl, fun hh => ?_⟩
  · have hsame := sameOperandsBut_setX { s with host := rest } i d
    exact ⟨_, step_of_write_operand hp hh, by simp, by simp, rfl, rfl, ⟨rfl, rfl, rfl, rfl, rfl⟩,
      ⟨rfl, rfl, rfl, rfl⟩, hsame, ⟨rfl, rfl, rfl⟩, ⟨rfl, rfl, rfl⟩, fun _ => rfl⟩
  · rcases hh with hh | hh
    · exact step_of_write_digest0 hh
    · exact step_of_write_digest1 hh

/-- Settles O47, by the cases of a transition (`step_cases`) and, for a command, of `commandStep_operand`. -/
theorem operandRegistersChangeOnlyAsListed : Obligations.OperandRegistersChangeOnlyAsListed := by
  intro s t i h
  rcases step_cases s with ⟨-, e⟩ | ⟨rest, -, e⟩ | ⟨_, _, _, _, -, -, e⟩ | ⟨off, w, d, rest, r, hh, hr, hw⟩ |
    ⟨_, _, _, -, -, e⟩ | ⟨_, _, _, -, e⟩ | ⟨rest, hh, e⟩
  · cases e.symm.trans h
    exact .inl (sameOperand_sequencerStep s i)
  · cases e.symm.trans h
    exact .inl (sameOperand_sequencerStep { s with host := rest } i)
  · cases e.symm.trans h
    exact .inl ⟨rfl, rfl⟩
  · rcases hw with ⟨j, rfl, hp, e⟩ | ⟨rfl, hp, e⟩ | ⟨-, e⟩ | ⟨-, e⟩ | ⟨-, -, e⟩ | ⟨-, -, e⟩
    · cases e.symm.trans h
      obtain ⟨rfl, rfl⟩ := offset_of_busReg_operand hr
      by_cases hij : j = i
      · subst hij
        exact .inr (.inl ⟨d, rest, hp, hh, by simp, by simp⟩)
      · exact .inl (sameOperand_setX_of_ne { s with host := rest } d hij)
    · obtain ⟨rfl, rfl⟩ := offset_of_busReg_cmd hr
      rcases commandStep_operand (e.symm.trans h) i with hsame | ⟨c, hd, hc⟩
      · exact .inl hsame
      · exact .inr (.inr (.inl ⟨d, rest, c, hp, hh, trunc32_eq_extractLsb' d ▸ hd, hc⟩))
    all_goals
      cases e.symm.trans h
      exact .inl ⟨rfl, rfl⟩
  · cases e.symm.trans h
  · cases e.symm.trans h
    exact .inl ⟨rfl, rfl⟩
  · cases e.symm.trans h
    exact .inr (.inr (.inr ⟨rest, hh, rfl, by simp⟩))

/-- Settles O48: of the cases of a transition only the access outside the map does not answer. -/
theorem onlyReservedAccessesAreRefused : Obligations.OnlyReservedAccessesAreRefused := by
  intro s
  rcases step_cases s with ⟨-, e⟩ | ⟨_, -, e⟩ | ⟨_, _, _, _, -, -, e⟩ | ⟨_, _, d, rest, _, -, -, hw⟩ |
    ⟨off, w, rest, hh, hr, e⟩ | ⟨_, _, _, -, e⟩ | ⟨_, -, e⟩
  · exact .inl ⟨_, e⟩
  · exact .inl ⟨_, e⟩
  · exact .inl ⟨_, e⟩
  · rcases hw with ⟨_, -, -, e⟩ | ⟨-, -, e⟩ | ⟨-, e⟩ | ⟨-, e⟩ | ⟨-, -, e⟩ | ⟨-, -, e⟩
    case inr.inl =>
      obtain ⟨t, ht⟩ := commandStep_next (trunc32 d) { s with host := rest }
      exact .inl ⟨t, e.trans ht⟩
    all_goals exact .inl ⟨_, e⟩
  · exact .inr ⟨off, w, rest, (busReg_eq_none_iff _ _).mp hr, hh, e⟩
  · exact .inl ⟨_, e⟩
  · exact .inl ⟨_, e⟩

end Sys2Proof.Machine
end

section
/-! What the host sees of the state (spec/10_state.md R29, R36, R42): `STATUS` as a number, the byte form of the digest, and
the state after reset. -/

namespace Sys2Proof.Machine

/-! ### `STATUS` -/

/-- A concatenation as a number: the high part stands `2 ^ n` higher. -/
theorem toNat_append_eq_add {m n : Nat} (x : BitVec m) (y : BitVec n) :
    (x ++ y).toNat = x.toNat * 2 ^ n + y.toNat := by
  rw [BitVec.toNat_append, ← Nat.shiftLeft_add_eq_or_of_lt y.isLt, Nat.shiftLeft_eq]

theorem busy_toNat (s : State) : s.busy.toNat = if s.phase = .idle then 0 else 1 := by
  rw [State.busy_eq]
  split <;> simp [*]

theorem shownMode_toNat (s : State) : s.shownMode.toNat = if s.phase = .idle then 0 else s.mode.code.toNat := by
  rw [State.shownMode, State.busy_eq]
  split <;> simp_all

/-- `STATUS` as a number, field by field (R29). -/
theorem status_toNat (s : State) :
    s.status.toNat =
      (if s.phase = .idle then 0 else 1) + 2 * (if s.dv then 1 else 0) + 16 * s.cond.code.toNat +
        256 * s.phase.code.toNat + 1024 * (if s.phase = .idle then 0 else s.mode.code.toNat) + 65536 * s.dw.toNat := by
  have hdv : s.dv.toNat = if s.dv then 1 else 0 := by cases s.dv <;> rfl
  simp only [State.status, toNat_append_eq_add, BitVec.toNat_ofBool, busy_toNat, shownMode_toNat, hdv,
    BitVec.ofNat_eq_ofNat, BitVec.toNat_ofNat]
  omega

/-- Settles O42: the view is `status_toNat`; the accesses are those of the map's offset 0x88. -/
theorem statusShowsTheState : Obligations.StatusShowsTheState :=
  ⟨status_toNat, fun _ _ _ hh => step_of_write_status hh,
    fun _ _ hh => ⟨_, step_of_busRead (r := .status) hh rfl, rfl, rfl⟩⟩

/-! ### The byte form of the digest -/

theorem le64_length (v : Word) : (le64 v).length = 8 := rfl

/-- Byte `j` of `LE64(v)` is bits `8j+7:8j` (R36). -/
theorem le64_getElem? (v : Word) {j : Nat} (hj : j < 8) : (le64 v)[j]? = some (v.extractLsb' (8 * j) 8) := by
  interval_cases j <;> rfl

/-- The 16 bytes `LE64(lo) ++ LE64(hi)` are the bytes of `{hi, lo}`, least significant first (R36). -/
theorem le64_append_getElem? (lo hi : Word) {j : Nat} (hj : j < 16) :
    (le64 lo ++ le64 hi)[j]? = some ((hi ++ lo).extractLsb' (8 * j) 8) := by
  rw [List.getElem?_append, le64_length]
  split
  · next h => rw [le64_getElem? lo h, BitVec.extractLsb'_append_eq_of_add_le (by omega)]
  · next h =>
    rw [le64_getElem? hi (by omega), BitVec.extractLsb'_append_eq_of_le (by omega), Nat.mul_sub]

/-- Settles O43: the digest's bytes are a front part of the 16 bytes of `le64_append_getElem?`. -/
theorem digestBytesAreLittleEndian : Obligations.DigestBytesAreLittleEndian := by
  refine ⟨fun s hw => ⟨?_, fun j hj => ?_⟩, fun s hw hd => ?_⟩
  · rw [State.digestBytes, List.length_take, List.length_append, le64_length, le64_length]
    omega
  · rw [State.digestBytes, List.getElem?_take_of_lt hj, le64_append_getElem? _ _ (by omega)]
  · rw [State.digestBytes, hw, hd]
    rfl

/-! ### The state after reset -/

/-- Nothing has written an operand register since reset, so a read of it is any value (R42). -/
theorem operand_resetOf (p : Params) (slot : Nat) (i : Reg) :
    (State.resetOf p).operand slot i = Config.freeWord (State.resetOf p).draws slot :=
  State.operand_unwritten _ _ _ (by simp)

/-- Settles O23: the listed values are the fields of the reset state, and an idle sequencer with no host move waits. -/
theorem resetStateIsAsListed : Obligations.ResetStateIsAsListed :=
  ⟨rfl, rfl, rfl, rfl, rfl, rfl, rfl, rfl, rfl, rfl, rfl, rfl, by decide, operand_resetOf _, step_of_no_host rfl⟩

end Sys2Proof.Machine
end

section
/-! The start step of a hash and the invariant (spec/10_state.md R28, R31, R35; spec/45_system.md R187): what a start step plans,
why a planned loop stays inside the message, and that every transition keeps the invariant. -/

namespace Sys2Proof.Machine

/-! ### Iteration counts -/

theorem toNat_sub_one {n : Word} (h : 1 ≤ n.toNat) : (n - 1).toNat = n.toNat - 1 := by
  rw [BitVec.toNat_sub_of_le (by rw [BitVec.le_def]; simpa using h)]
  simp

theorem toNat_iters32 (r : IterRule) {n : Word} (h : 1 ≤ n.toNat) : (iters32 r n).toNat = iterCount r n.toNat 20 := by
  cases r <;> simp only [iters32, iterCount, BitVec.toNat_udiv, toNat_sub_one h] <;> rfl

theorem toNat_iters64 (r : IterRule) {n : Word} (h : 1 ≤ n.toNat) : (iters64 r n).toNat = iterCount r n.toNat 64 := by
  cases r <;> simp only [iters64, iterCount, BitVec.toNat_udiv, toNat_sub_one h] <;> rfl

theorem toNat_itersCm {k : Word} (h : 1 ≤ k.toNat) : (itersCm k).toNat = (k.toNat - 1) / 16 := by
  rw [itersCm, BitVec.toNat_udiv, toNat_sub_one h]
  rfl

theorem toNat_iters128 (k : Word) : (iters128 k).toNat = k.toNat / 128 := by
  simp [iters128, BitVec.toNat_udiv]

/-- A message longer than a group has a group to consume, under both values of `ITER_RULE`. -/
theorem iterCount_pos (r : IterRule) {n g : Nat} (hg : 0 < g) (h : g < n) : 1 ≤ iterCount r n g := by
  cases r
  · exact Nat.div_pos (by omega) hg
  · exact Nat.div_pos h.le hg

/-- The groups of a loop are not longer than the message, under both values of `ITER_RULE`. -/
theorem mul_iterCount_le (r : IterRule) (n g : Nat) : g * iterCount r n g ≤ n := by
  cases r
  · exact (Nat.mul_div_le _ _).trans (Nat.sub_le _ _)
  · exact Nat.mul_div_le _ _

/-! ### What a start step leaves -/

/-- The form of a digest of width `w` (R35): a 32-bit one is zero-extended, and one of at most 64 bits has no second word. -/
def DigestForm (w : BitVec 8) (d0 d1 : Word) : Prop :=
  (w = 32 ∧ d0.toNat < 2 ^ 32 ∧ d1 = 0) ∨ (w = 64 ∧ d1 = 0) ∨ w = 128

theorem digestForm_32 (v : Half) : DigestForm 32 (zext64 v) 0 :=
  .inl ⟨rfl, by rw [zext64, BitVec.toNat_setWidth_of_le (by omega)]; exact v.isLt, rfl⟩

theorem digestForm_64 (v : Word) : DigestForm 64 v 0 := .inr (.inl ⟨rfl, rfl⟩)

theorem digestForm_128 (d0 d1 : Word) : DigestForm 128 d0 d1 := .inr (.inr rfl)

/-- The start step from `s` to `t` entered the loop of mode `m` at offset `p` with `c` iterations, all of them due and the
message long enough for it (R28). -/
def EntersLoop (m : Mode) (p c : Nat) (s t : State) : Prop :=
  (∃ pos cnt w, t = s.enterLoop m pos cnt w ∧ pos.toNat = p ∧ cnt.toNat = c) ∧
    1 ≤ c ∧ t.longEnough ∧ t.loopStart = p ∧ t.loopCount = c

/-- The start step of a hash of width `w` from `s` to `t` did what its plan says: it completed the hash, or entered the loop. -/
def FollowsPlan (w : BitVec 8) (plan : Option (Mode × Nat × Nat)) (s t : State) : Prop :=
  match plan with
  | none => ∃ d0 d1, DigestForm w d0 d1 ∧ t = s.complete w d0 d1
  | some (m, p, c) => EntersLoop m p c s t

theorem start32_followsPlan (s : State) :
    FollowsPlan 32 (hashPlan 32 s.params.iterRule s.len.toNat) s (start32 s) := by
  rcases start32_cases s with ⟨v, hn, e⟩ | ⟨w, hn, e⟩
  · have hplan : hashPlan 32 s.params.iterRule s.len.toNat = none := by simp [hashPlan, hn]
    rw [hplan, e]
    exact ⟨_, _, digestForm_32 v, rfl⟩
  · have hplan : hashPlan 32 s.params.iterRule s.len.toNat =
        some (.m32, 0, iterCount s.params.iterRule s.len.toNat 20) := by
      simp [hashPlan, show ¬ s.len.toNat ≤ 24 by omega]
    rw [hplan, e]
    exact ⟨⟨_, _, _, rfl, rfl, toNat_iters32 _ (by omega)⟩, iterCount_pos _ (by omega) (by omega), hn, rfl, rfl⟩

theorem start64_followsPlan (s : State) :
    FollowsPlan 64 (hashPlan 64 s.params.iterRule s.len.toNat) s (start64 s) := by
  rcases start64_cases s with ⟨v, hn, e⟩ | ⟨w, hn, e⟩
  · have hplan : hashPlan 64 s.params.iterRule s.len.toNat = none := by simp [hashPlan, hn]
    rw [hplan, e]
    exact ⟨_, _, digestForm_64 v, rfl⟩
  · have hplan : hashPlan 64 s.params.iterRule s.len.toNat =
        some (.m64, 0, iterCount s.params.iterRule s.len.toNat 64) := by
      simp [hashPlan, show ¬ s.len.toNat ≤ 64 by omega]
    rw [hplan, e]
    exact ⟨⟨_, _, _, rfl, rfl, toNat_iters64 _ (by omega)⟩, iterCount_pos _ (by omega) (by omega), hn, rfl, rfl⟩

/-- The body of a 128-bit hash follows its plan where it starts at 0 or 16 and ends with the message (R162). -/
theorem body128_followsPlan (s : State) (lo hi soff k : Word) (hoff : soff = 0 ∨ soff = 16)
    (htail : soff.toNat + k.toNat = s.len.toNat) :
    FollowsPlan 128 (bodyPlan soff.toNat k.toNat) s (body128 s lo hi soff k) := by
  rcases body128_cases s lo hi soff k with ⟨d0, d1, hk, e⟩ | ⟨w, hk, rfl, rfl, e⟩ | ⟨w, hk, hk', rfl, rfl, e⟩
  · have hplan : bodyPlan soff.toNat k.toNat = none := by simp [bodyPlan, hk, show ¬ 128 ≤ k.toNat by omega]
    rw [hplan, e]
    exact ⟨d0, d1, digestForm_128 d0 d1, rfl⟩
  · have hplan : bodyPlan w.soff.toNat w.mlen.toNat = some (.m128, w.soff.toNat, w.mlen.toNat / 128) := by
      simp [bodyPlan, hk]
    rw [hplan, e]
    exact ⟨⟨_, _, _, rfl, rfl, toNat_iters128 _⟩, Nat.div_pos hk (by omega), ⟨hk, hoff, htail⟩, rfl, rfl⟩
  · have hplan : bodyPlan w.soff.toNat w.mlen.toNat = some (.mcm, w.soff.toNat, (w.mlen.toNat - 1) / 16) := by
      simp [bodyPlan, show ¬ 128 ≤ w.mlen.toNat by omega, show ¬ w.mlen.toNat ≤ 16 by omega]
    rw [hplan, e]
    exact ⟨⟨_, _, _, rfl, rfl, toNat_itersCm (by omega)⟩, Nat.div_pos (by omega) (by omega), ⟨hk, hk', hoff, htail⟩,
      rfl, rfl⟩

theorem start128_followsPlan (s : State) :
    FollowsPlan 128 (hashPlan 128 s.params.iterRule s.len.toNat) s (start128 s) := by
  by_cases hn : 16 ≤ s.len.toNat
  · have hk : (s.len - 16).toNat = s.len.toNat - 16 := by
      rw [BitVec.toNat_sub_of_le (by rw [BitVec.le_def]; simpa using hn)]
      simp
    have hplan : hashPlan 128 s.params.iterRule s.len.toNat = bodyPlan (16 : Word).toNat (s.len - 16).toNat := by
      rw [hk]
      simp [hashPlan, hn]
    rw [hplan, start128, if_pos hn]
    exact body128_followsPlan s _ _ 16 _ (.inr rfl) (by rw [hk]; simp; omega)
  · have hplan : hashPlan 128 s.params.iterRule s.len.toNat = bodyPlan (0 : Word).toNat s.len.toNat := by
      simp [hashPlan, hn]
    rw [hplan, start128, if_neg hn]
    exact body128_followsPlan s _ _ 0 _ (.inl rfl) (by simp)

/-- The start step of every supported width follows its plan (R120, R140, R160). -/
theorem startHash_followsPlan {w : BitVec 8} (hw : w = 32 ∨ w = 64 ∨ w = 128) (s : State) :
    FollowsPlan w (hashPlan w s.params.iterRule s.len.toNat) s (startHash w s) := by
  rcases hw with rfl | rfl | rfl
  · exact start32_followsPlan s
  · exact start64_followsPlan s
  · exact start128_followsPlan s

theorem start128s_followsPlan (s : State) : FollowsPlan 128 (bodyPlan 0 s.len.toNat) s (start128s s) :=
  body128_followsPlan s _ _ 0 _ (.inl rfl) (by simp)

theorem supportedWidth_iff (w : BitVec 8) : supportedWidth w = true ↔ w = 32 ∨ w = 64 ∨ w = 128 := by
  simp [supportedWidth, or_assoc]

/-- With no cancellation and a window that does not wrap, accepting a hash is its start step (R187 step 5). -/
theorem acceptHash_eq_start {s : State} (start : State → State) (hc : s.cancel = false)
    (hwin : s.base.toNat + s.len.toNat ≤ 2 ^ 64) : s.acceptHash true start = start s.withoutDigest := by
  have hb : s.windowWraps ≠ true := by rw [ne_eq, State.windowWraps_iff]; omega
  rcases State.acceptHash_cases s true start with ⟨h, -⟩ | ⟨-, h, -⟩ | ⟨-, -, h, -⟩ | ⟨-, -, -, e⟩
  · cases h
  · rw [hc] at h; cases h
  · exact absurd h hb
  · exact e

/-- What following its plan leaves to see of a start step (R28, R187). -/
theorem started_of_followsPlan {w : BitVec 8} {plan : Option (Mode × Nat × Nat)} {s t : State}
    (h : FollowsPlan w plan s.withoutDigest t) : Started w plan s t := by
  cases plan with
  | none =>
    obtain ⟨d0, d1, -, rfl⟩ := h
    exact ⟨rfl, ⟨fun _ _ => ⟨rfl, rfl⟩, ⟨rfl, rfl, rfl⟩, ⟨rfl, rfl, rfl⟩, fun _ => rfl⟩, rfl, rfl, rfl⟩
  | some mpc =>
    obtain ⟨⟨pos, cnt, wk, rfl, hpos, hcnt⟩, hc, -⟩ := h
    exact ⟨rfl, ⟨fun _ _ => ⟨rfl, rfl⟩, ⟨rfl, rfl, rfl⟩, ⟨rfl, rfl, rfl⟩, fun _ => rfl⟩, rfl, rfl, hpos, hcnt, hc, rfl, rfl,
      rfl, rfl⟩

/-- Settles O26: the start step is reached (`acceptHash_eq_start`) and follows its plan. -/
theorem startStepFollowsTheBuckets : Obligations.StartStepFollowsTheBuckets := by
  refine fun s hc hwin => ⟨fun w hw => ⟨_, rfl, ?_⟩, ⟨_, rfl, ?_⟩⟩
  · rw [(supportedWidth_iff w).mpr hw, acceptHash_eq_start _ hc hwin]
    exact started_of_followsPlan (startHash_followsPlan hw s.withoutDigest)
  · rw [acceptHash_eq_start _ hc hwin]
    exact started_of_followsPlan (start128s_followsPlan s.withoutDigest)

/-! ### How the invariant is kept: by the parts of the state it speaks of -/

section
variable {s t : State}

/-- While no hash runs the invariant speaks of the memory and the digest only. -/
theorem inv_of_phase_idle (hmem : t.mem.wf) (hphase : t.phase = .idle)
    (width : t.dv = true → t.dw = 32 ∨ t.dw = 64 ∨ t.dw = 128) (noWidth : t.dv = false → t.dw = 0)
    (digest32 : t.dw = 32 → t.digest0.toNat < 2 ^ 32 ∧ t.digest1 = 0) (digest64 : t.dw = 64 → t.digest1 = 0) : t.Inv where
  memory := hmem
  width := width
  noWidth := noWidth
  digest32 := digest32
  digest64 := digest64
  running h := absurd hphase h
  long h := absurd hphase h
  position h := absurd hphase h
  loopLeft h := by simp [hphase] at h
  finLeft h := by simp [hphase] at h

/-- A state with no valid digest and no hash running meets the invariant. -/
theorem inv_of_cleared (hmem : t.mem.wf) (hphase : t.phase = .idle) (hdv : t.dv = false) (hdw : t.dw = 0) : t.Inv :=
  inv_of_phase_idle hmem hphase (by simp [hdv]) (fun _ => hdw) (by simp [hdw]) (by simp [hdw])

/-- A state with a valid digest of the right form and no hash running meets the invariant. -/
theorem inv_of_digestForm (hmem : t.mem.wf) (hphase : t.phase = .idle) (hdv : t.dv = true)
    (hform : DigestForm t.dw t.digest0 t.digest1) : t.Inv := by
  have noWidth : t.dv = false → t.dw = 0 := by simp [hdv]
  rcases hform with ⟨hw, h0, h1⟩ | ⟨hw, h1⟩ | hw
  · exact inv_of_phase_idle hmem hphase (fun _ => .inl hw) noWidth (fun _ => ⟨h0, h1⟩) (fun _ => h1)
  · exact inv_of_phase_idle hmem hphase (fun _ => .inr (.inl hw)) noWidth (by simp [hw]) (fun _ => h1)
  · exact inv_of_phase_idle hmem hphase (fun _ => .inr (.inr hw)) noWidth (by simp [hw]) (by simp [hw])

/-- Where no hash runs afterwards and the digest is kept, so is the invariant. -/
theorem State.Inv.of_idle (hs : s.Inv) (hmem : t.mem = s.mem) (hphase : t.phase = .idle) (hd : SameDigest s t) : t.Inv := by
  obtain ⟨hdv, hdw, h0, h1⟩ := hd
  refine inv_of_phase_idle (hmem ▸ hs.memory) hphase ?_ ?_ ?_ ?_
  · rw [hdv, hdw]; exact hs.width
  · rw [hdv, hdw]; exact hs.noWidth
  · rw [hdw, h0, h1]; exact hs.digest32
  · rw [hdw, h1]; exact hs.digest64

/-- What the host does beside a hash keeps the invariant: it may write memory, operand registers, `CANCEL` and its own part. -/
theorem State.Inv.of_sameSequencer (hs : s.Inv) (hmem : t.mem.wf) (hseq : SameSequencer s t) (hd : SameDigest s t)
    (hcond : t.cond = s.cond) (hbase : t.base = s.base) (hlen : t.len = s.len) (hparams : t.params = s.params) : t.Inv := by
  obtain ⟨hphase, hmode, hpos, hcnt, hwork⟩ := hseq
  obtain ⟨hdv, hdw, h0, h1⟩ := hd
  cases s
  cases t
  subst hphase hmode hpos hcnt hwork hdv hdw h0 h1 hcond hbase hlen hparams
  exact { hs with memory := hmem }

/-- Entering a planned loop meets the invariant. -/
theorem inv_of_entersLoop {m : Mode} {p c : Nat} (hmem : s.mem.wf) (hwin : s.base.toNat + s.len.toNat ≤ 2 ^ 64)
    (hdv : s.dv = false) (hdw : s.dw = 0) (h : EntersLoop m p c s t) : t.Inv := by
  obtain ⟨⟨pos, cnt, w, rfl, hpos, hcnt⟩, hc, hlong, hstart, hcount⟩ := h
  exact {
    memory := hmem
    width := fun h => by simp [hdv] at h
    noWidth := fun _ => hdw
    digest32 := fun h => by simp [hdw] at h
    digest64 := fun h => by simp [hdw] at h
    running := fun _ => ⟨rfl, hdv, hwin⟩
    long := fun _ => hlong
    position := fun _ => by rw [hstart, hcount]; simp [hpos, hcnt]
    loopLeft := fun _ => by simpa [hcnt] using hc
    finLeft := fun h => by simp at h }

theorem inv_of_followsPlan {w : BitVec 8} {plan : Option (Mode × Nat × Nat)} (hmem : s.mem.wf)
    (hwin : s.base.toNat + s.len.toNat ≤ 2 ^ 64) (hdv : s.dv = false) (hdw : s.dw = 0) (h : FollowsPlan w plan s t) :
    t.Inv := by
  cases plan with
  | none =>
    obtain ⟨d0, d1, hform, rfl⟩ := h
    exact inv_of_digestForm hmem rfl rfl hform
  | some mpc => exact inv_of_entersLoop hmem hwin hdv hdw h

end

/-- Settles O50: after reset nothing is listed in memory, no digest is valid and no hash runs. -/
theorem resetMeetsTheInvariant : Obligations.ResetMeetsTheInvariant :=
  have h (p : Params) : (State.resetOf p).Inv := inv_of_cleared Memory.wf_nil rfl rfl rfl
  ⟨h, h _⟩

/-! ### Loop steps -/

/-- Consuming a group is `advance` by the mode's group; `S.soff` and `S.mlen` stay (R125, R147, R165, R171). -/
theorem consumeGroup_advances (s : State) :
    ∃ w : Work, consumeGroup s = s.advance (BitVec.ofNat 64 s.mode.group) w ∧ w.soff = s.work.soff ∧
      w.mlen = s.work.mlen := by
  rw [consumeGroup_eq]
  cases s.mode
  · exact ⟨_, rfl, round32_soff .., round32_mlen ..⟩
  · exact ⟨_, rfl, round64_soff .., round64_mlen ..⟩
  · exact ⟨_, rfl, round128_soff .., round128_mlen ..⟩
  · exact ⟨_, rfl, roundCm_soff .., roundCm_mlen ..⟩

theorem toNat_group (m : Mode) : (BitVec.ofNat 64 m.group).toNat = m.group := by
  cases m <;> rfl

/-- The loop of a running hash ends inside the message (R123, R145, R164, R170). -/
theorem loop_end_le_len {s : State} (h : s.longEnough) : s.loopStart + s.mode.group * s.loopCount ≤ s.len.toNat := by
  unfold State.longEnough at h
  unfold State.loopStart State.loopCount Mode.group
  cases hm : s.mode <;> simp only [hm] at h ⊢
  · simpa using mul_iterCount_le s.params.iterRule s.len.toNat 20
  · simpa using mul_iterCount_le s.params.iterRule s.len.toNat 64
  · obtain ⟨-, -, htail⟩ := h
    omega
  · obtain ⟨-, -, -, htail⟩ := h
    omega

section
variable {s : State}

/-- The next group lies inside the message (R28, R207): the groups left end where the loop does, and one of them is due. -/
theorem State.Inv.group_inside (hs : s.Inv) (hp : s.phase = .loop) : s.pos.toNat + s.mode.group ≤ s.len.toNat := by
  have hbusy : s.phase ≠ .idle := by simp [hp]
  have hdue : s.mode.group ≤ s.mode.group * s.cnt.toNat := Nat.le_mul_of_pos_right _ (hs.loopLeft hp)
  calc s.pos.toNat + s.mode.group ≤ s.pos.toNat + s.mode.group * s.cnt.toNat := Nat.add_le_add_left hdue _
    _ = s.loopStart + s.mode.group * s.loopCount := hs.position hbusy
    _ ≤ s.len.toNat := loop_end_le_len (hs.long hbusy)

/-- So `POS` advances without wrapping. -/
theorem State.Inv.toNat_pos_add_group (hs : s.Inv) (hp : s.phase = .loop) :
    (s.pos + BitVec.ofNat 64 s.mode.group).toNat = s.pos.toNat + s.mode.group := by
  have hin := hs.group_inside hp
  have hlen := s.len.isLt
  rw [BitVec.toNat_add_of_lt (by rw [toNat_group]; omega), toNat_group]

/-- The last iteration due is the one after which the finish step comes (R28). -/
theorem advance_phase_of_due (h : 1 ≤ s.cnt.toNat) (g : Word) (w : Work) :
    (s.advance g w).phase = if s.cnt.toNat = 1 then .fin else s.phase := by
  have hlast : s.cnt - 1 = 0 ↔ s.cnt.toNat = 1 := by
    rw [← BitVec.toNat_inj, toNat_sub_one h]
    change s.cnt.toNat - 1 = 0 ↔ _
    omega
  simp only [State.advance_phase, hlast]

/-- A loop step without a cancellation keeps the invariant. -/
theorem State.Inv.consumeGroup (hs : s.Inv) (hp : s.phase = .loop) : (consumeGroup s).Inv := by
  have hbusy : s.phase ≠ .idle := by simp [hp]
  have hdue := hs.loopLeft hp
  have hpos := hs.position hbusy
  obtain ⟨w, e, hsoff, hmlen⟩ := consumeGroup_advances s
  rw [e]
  exact {
    memory := hs.memory
    width := hs.width
    noWidth := hs.noWidth
    digest32 := hs.digest32
    digest64 := hs.digest64
    running := fun _ => hs.running hbusy
    long := fun _ => by
      simpa [State.longEnough, State.bodyIsTail, hsoff, hmlen] using hs.long hbusy
    position := fun _ => by
      have hstart : (s.advance (BitVec.ofNat 64 s.mode.group) w).loopStart = s.loopStart := by
        simp [State.loopStart, hsoff]
      have hcount : (s.advance (BitVec.ofNat 64 s.mode.group) w).loopCount = s.loopCount := by
        simp [State.loopCount, hmlen]
      have hmul : s.mode.group * s.cnt.toNat = s.mode.group + s.mode.group * (s.cnt.toNat - 1) := by
        rw [Nat.mul_sub_one, Nat.add_sub_of_le (Nat.le_mul_of_pos_right _ hdue)]
      rw [hstart, hcount, State.advance_pos, State.advance_mode, State.advance_cnt, hs.toNat_pos_add_group hp,
        toNat_sub_one hdue, ← hpos]
      omega
    loopLeft := fun h => by
      rw [advance_phase_of_due hdue] at h
      rw [State.advance_cnt, toNat_sub_one hdue]
      split at h
      · cases h
      · omega
    finLeft := fun h => by
      rw [advance_phase_of_due hdue, hp] at h
      split at h
      · next hlast => exact BitVec.eq_of_toNat_eq (by rw [State.advance_cnt, toNat_sub_one hdue, hlast]; rfl)
      · cases h }

end

/-- Settles O51: the group is inside by the invariant, and the step is `advance` by it. -/
theorem groupsLieInsideTheMessage : Obligations.GroupsLieInsideTheMessage := by
  intro s hs hp hc hh
  have hdue := hs.loopLeft hp
  have hstep : step s = .next (consumeGroup s) := by
    rw [step_of_no_host hh]
    simp [sequencerStep, loopStep, hp, hc]
  obtain ⟨w, e, -⟩ := consumeGroup_advances s
  refine ⟨hs.group_inside hp, _, hstep.trans (congrArg _ e), hs.toNat_pos_add_group hp, ?_, ?_, rfl, rfl, ⟨rfl, rfl, rfl, rfl⟩,
    fun _ _ => ⟨rfl, rfl⟩, ⟨rfl, rfl, rfl⟩, ⟨rfl, rfl, rfl⟩, fun _ => rfl⟩
  · rw [State.advance_cnt, toNat_sub_one hdue]
    omega
  · rw [advance_phase_of_due hdue, hp]

/-! ### Every transition keeps the invariant -/

/-- A finish step delivers a digest of the form its width demands (R126, R148, R166, R172). -/
theorem finishStep_delivers (s : State) :
    ∃ w d0 d1, finishStep s = s.deliver w d0 d1 ∧ DigestForm w d0 d1 := by
  unfold finishStep
  cases s.mode
  · exact ⟨_, _, _, rfl, digestForm_32 _⟩
  · exact ⟨_, _, _, rfl, digestForm_64 _⟩
  · exact ⟨_, _, _, rfl, digestForm_128 _ _⟩
  · exact ⟨_, _, _, rfl, digestForm_128 _ _⟩

section
variable {s t : State}

theorem State.Inv.raise (hs : s.Inv) (c : Cond) : (s.raise c).Inv := hs.of_idle rfl rfl ⟨rfl, rfl, rfl, rfl⟩

theorem State.Inv.resetCore (hs : s.Inv) : s.resetCore.Inv := inv_of_cleared hs.memory rfl rfl rfl

theorem State.Inv.withoutDigest_raise (hs : s.Inv) (c : Cond) : (s.withoutDigest.raise c).Inv :=
  inv_of_cleared hs.memory rfl rfl rfl

/-- The host's part of the state is not in the invariant. -/
theorem State.Inv.withHost (hs : s.Inv) (moves : List HostMove) : State.Inv { s with host := moves } :=
  hs.of_sameSequencer hs.memory ⟨rfl, rfl, rfl, rfl, rfl⟩ ⟨rfl, rfl, rfl, rfl⟩ rfl rfl rfl rfl

theorem State.Inv.sequencerStep (hs : s.Inv) : (sequencerStep s).Inv := by
  rcases sequencerStep_cases s with ⟨-, e⟩ | ⟨-, -, e⟩ | ⟨hp, -, e⟩ | ⟨-, e⟩ <;> rw [e]
  · exact hs
  · exact hs.raise _
  · exact hs.consumeGroup hp
  · obtain ⟨w, d0, d1, e, hform⟩ := finishStep_delivers s
    rw [e]
    exact inv_of_digestForm hs.memory rfl rfl hform

/-- Accepting a hash whose start step follows a plan keeps the invariant (R187). -/
theorem State.Inv.acceptHash (hs : s.Inv) {ok : Bool} {start : State → State} {w : BitVec 8}
    {plan : Option (Mode × Nat × Nat)} (h : ok = true → FollowsPlan w plan s.withoutDigest (start s.withoutDigest)) :
    (s.acceptHash ok start).Inv := by
  rcases State.acceptHash_cases s ok start with ⟨-, e⟩ | ⟨-, -, e⟩ | ⟨-, -, -, e⟩ | ⟨hok, -, hwin, e⟩ <;> rw [e]
  · exact hs.withoutDigest_raise _
  · exact hs.withoutDigest_raise _
  · exact hs.withoutDigest_raise _
  · have hwin' : ¬ 2 ^ 64 < s.base.toNat + s.len.toNat := by rw [← State.windowWraps_iff, hwin]; simp
    exact inv_of_followsPlan (s := s.withoutDigest) hs.memory (Nat.le_of_not_lt hwin') rfl rfl (h hok)

/-- The commands without a destination are the system commands and the hashes (R74). -/
theorem dests_eq_nil_iff (i : Instr) : i.dests = [] ↔ i = .nop ∨ i = .sreset ∨ (∃ w, i = .hash w) ∨ i = .hash128s := by
  cases i <;> simp [Instr.dests]

/-- A command accepted while idle keeps the invariant (R186). -/
theorem State.Inv.exec (hs : s.Inv) (hp : s.phase = .idle) {i : Instr} (h : exec i s = .next t) : t.Inv := by
  rcases exec_cases i s with ⟨_, _, -, e⟩ | ⟨_, -, e⟩ | e | ⟨rfl, e⟩ | ⟨rfl, e⟩ | ⟨-, _, e⟩ | ⟨hi, -⟩
  case inr.inr.inr.inr.inr.inr =>
    rcases (dests_eq_nil_iff i).mp hi with rfl | rfl | ⟨w, rfl⟩ | rfl <;> cases h
    · exact hs.of_idle rfl hp ⟨rfl, rfl, rfl, rfl⟩
    · exact hs.resetCore
    · exact hs.acceptHash fun hw => startHash_followsPlan ((supportedWidth_iff w).mp hw) s.withoutDigest
    · exact hs.acceptHash fun _ => start128s_followsPlan s.withoutDigest
  all_goals cases e.symm.trans h
  · exact hs.of_idle rfl hp ⟨rfl, rfl, rfl, rfl⟩
  · exact hs.of_idle rfl hp ⟨rfl, rfl, rfl, rfl⟩
  · exact hs.raise _
  · exact hs.of_idle rfl hp ⟨rfl, rfl, rfl, rfl⟩
  · exact hs.resetCore
  · exact hs.withoutDigest_raise _

theorem State.Inv.commandStep (hs : s.Inv) (hp : s.phase = .idle) {w : BitVec 32} (h : commandStep w s = .next t) :
    t.Inv := by
  cases hd : decode w with
  | none =>
    cases (commandStep_of_illegal hd s).symm.trans h
    exact hs.raise _
  | some i =>
    rw [commandStep_of_decode hd] at h
    exact hs.exec hp h

theorem State.Inv.memWrite (hs : s.Inv) (a : Word) (b : Byte) : (s.memWrite a b).Inv :=
  hs.of_sameSequencer (Memory.wf_write hs.memory a.isLt b) ⟨rfl, rfl, rfl, rfl, rfl⟩ ⟨rfl, rfl, rfl, rfl⟩ rfl rfl rfl rfl

end

/-- Settles O49, by the cases of a transition: the sequencer's step, a command, and what the host does beside them. -/
theorem everyStepKeepsTheInvariant : Obligations.EveryStepKeepsTheInvariant := by
  intro s t hs h
  rcases step_cases s with ⟨-, e⟩ | ⟨rest, -, e⟩ | ⟨_, _, _, _, -, -, e⟩ | ⟨_, _, d, rest, r, -, -, hw⟩ |
    ⟨_, _, _, -, -, e⟩ | ⟨a, b, rest, -, e⟩ | ⟨rest, -, e⟩
  · cases e.symm.trans h
    exact hs.sequencerStep
  · cases e.symm.trans h
    exact (hs.withHost rest).sequencerStep
  · cases e.symm.trans h
    exact hs.of_sameSequencer hs.memory ⟨rfl, rfl, rfl, rfl, rfl⟩ ⟨rfl, rfl, rfl, rfl⟩ rfl rfl rfl rfl
  · rcases hw with ⟨_, -, hp, e⟩ | ⟨-, hp, e⟩ | ⟨-, e⟩ | ⟨-, e⟩ | ⟨-, hp, e⟩ | ⟨-, hp, e⟩
    case inr.inl => exact (hs.withHost rest).commandStep hp (e.symm.trans h)
    all_goals cases e.symm.trans h
    · exact hs.of_idle rfl hp ⟨rfl, rfl, rfl, rfl⟩
    · exact hs.withHost rest
    · exact hs.of_sameSequencer hs.memory ⟨rfl, rfl, rfl, rfl, rfl⟩ ⟨rfl, rfl, rfl, rfl⟩ rfl rfl rfl rfl
    · exact hs.of_idle rfl hp ⟨rfl, rfl, rfl, rfl⟩
    · exact hs.of_idle rfl hp ⟨rfl, rfl, rfl, rfl⟩
  · cases e.symm.trans h
  · cases e.symm.trans h
    exact (hs.withHost rest).memWrite a b
  · cases e.symm.trans h
    exact (hs.withHost rest).resetCore

end Sys2Proof.Machine
end

section
/-! Message memory (spec/20_memory.md R51, R52, R56, R60): multi-byte reads as sums of bytes, who writes memory, and what a hash
delivers whose window the host wrote. -/

namespace Sys2Proof.Machine

/-! ### Multi-byte reads -/

/-- The byte `i` places above `a`, where the address space does not end before it. -/
theorem memRead8_add (m : Memory) {a i : Word} (h : a.toNat + i.toNat < 2 ^ 64) :
    memRead8 m (a + i) = m.read (a.toNat + i.toNat) := by
  rw [memRead8, BitVec.toNat_add_of_lt h]

/-- An 8-byte read is the two 4-byte reads, the upper one most significant (R52). -/
theorem memRead64_eq_append (m : Memory) (a : Word) : memRead64 m a = memRead32 m (a + 4) ++ memRead32 m a := by
  have h5 : a + 4 + 1 = a + 5 := BitVec.add_assoc ..
  have h6 : a + 4 + 2 = a + 6 := BitVec.add_assoc ..
  have h7 : a + 4 + 3 = a + 7 := BitVec.add_assoc ..
  apply BitVec.eq_of_toNat_eq
  simp only [memRead64, memRead32, h5, h6, h7, toNat_append_eq_add]
  omega

theorem memRead8_toNat (m : Memory) (a : Word) : (memRead8 m a).toNat = natBytes m a.toNat 1 := by
  simp [memRead8, natBytes]

theorem memRead32_toNat (m : Memory) {a : Word} (h : a.toNat + 4 ≤ 2 ^ 64) :
    (memRead32 m a).toNat = natBytes m a.toNat 4 := by
  have byte (i : Word) (hi : i.toNat < 4) : memRead8 m (a + i) = m.read (a.toNat + i.toNat) := memRead8_add m (by omega)
  simp only [memRead32, natBytes, toNat_append_eq_add]
  rw [byte 1 (by decide), byte 2 (by decide), byte 3 (by decide), memRead8]
  simp only [BitVec.reduceToNat, Nat.add_zero]
  omega

/-- Bytes are summed in two runs, one after the other. -/
theorem natBytes_add (m : Memory) (a i j : Nat) :
    natBytes m a (i + j) = natBytes m a i + natBytes m (a + i) j * 2 ^ (8 * i) := by
  induction j with
  | zero => simp [natBytes]
  | succ j ih =>
    rw [← Nat.add_assoc, natBytes, ih, natBytes, Nat.add_mul, Nat.mul_add 8 i j, Nat.pow_add, Nat.add_assoc a i j]
    ring

/-- An 8-byte read as the sum of its bytes, by the two 4-byte reads it is made of (R51, R52). -/
theorem memRead64_toNat (m : Memory) {a : Word} (h : a.toNat + 8 ≤ 2 ^ 64) :
    (memRead64 m a).toNat = natBytes m a.toNat 8 := by
  have h4 : (a + 4).toNat = a.toNat + 4 := BitVec.toNat_add_of_lt (show a.toNat + 4 < 2 ^ 64 by omega)
  rw [memRead64_eq_append, toNat_append_eq_add, memRead32_toNat m (by omega), memRead32_toNat m (a := a) (by omega), h4,
    natBytes_add m a.toNat 4 4, Nat.add_comm]

/-- Settles O20: the sums are `memRead8_toNat`, `memRead32_toNat` and `memRead64_toNat`; the rule's example is a case. -/
theorem wordReadsAreLittleEndian : Obligations.WordReadsAreLittleEndian := by
  refine ⟨memRead8_toNat, fun m _ => memRead32_toNat m, fun m _ => memRead64_toNat m, memRead64_eq_append,
    fun m a h0 h1 h2 h3 => ?_⟩
  rw [memRead32, h0, h1, h2, h3]
  rfl

/-! ### Who writes memory -/

/-- A step that writes neither the message memory nor what the host keeps (R56, R185). -/
def KeepsMemory (s t : State) : Prop := t.mem = s.mem ∧ SameHost s t

theorem keepsMemory_of_startEnd {s t : State} (h : StartEnd s t) : KeepsMemory s t := by
  rcases h with ⟨_, _, _, rfl⟩ | ⟨_, _, _, _, rfl⟩ <;> exact ⟨rfl, rfl, rfl, rfl⟩

theorem exec_keepsMemory (i : Instr) (s : State) : ∃ t, exec i s = .next t ∧ KeepsMemory s t := by
  rcases exec_cases i s with ⟨_, _, -, e⟩ | ⟨_, -, e⟩ | e | ⟨-, e⟩ | ⟨-, e⟩ | ⟨-, _, e⟩ | ⟨-, _, hend, e⟩
  case inr.inr.inr.inr.inr.inr => exact ⟨_, e, keepsMemory_of_startEnd (s := s.withoutDigest) hend⟩
  all_goals exact ⟨_, e, rfl, rfl, rfl, rfl⟩

theorem commandStep_keepsMemory (w : BitVec 32) (s : State) : ∃ t, commandStep w s = .next t ∧ KeepsMemory s t := by
  cases hd : decode w with
  | none => exact ⟨_, commandStep_of_illegal hd s, rfl, rfl, rfl, rfl⟩
  | some i => rw [commandStep_of_decode hd]; exact exec_keepsMemory i s

theorem sequencerStep_keepsMemory (s : State) : KeepsMemory s (sequencerStep s) := by
  obtain ⟨hhost, hbus, hmem, hparams, -⟩ := sequencerStep_frame s
  exact ⟨hmem, hhost, hbus, hparams⟩

/-- The one move that writes memory is the host's memory write; no move writes the parameters (R6, R50, R56). -/
theorem step_mem_cases {s t : State} (h : step s = .next t) :
    t.params = s.params ∧
      (t.mem = s.mem ∨ ∃ a b rest, s.host = .memWrite a b :: rest ∧ t.mem = s.mem.write a.toNat b) := by
  rcases step_cases s with ⟨-, e⟩ | ⟨rest, -, e⟩ | ⟨_, _, _, _, -, -, e⟩ | ⟨_, _, d, rest, _, -, -, hw⟩ |
    ⟨_, _, _, -, -, e⟩ | ⟨a, b, rest, hh, e⟩ | ⟨_, -, e⟩
  · cases e.symm.trans h
    obtain ⟨hmem, -, -, hparams⟩ := sequencerStep_keepsMemory s
    exact ⟨hparams, .inl hmem⟩
  · cases e.symm.trans h
    obtain ⟨hmem, -, -, hparams⟩ := sequencerStep_keepsMemory { s with host := rest }
    exact ⟨hparams, .inl hmem⟩
  · cases e.symm.trans h
    exact ⟨rfl, .inl rfl⟩
  · rcases hw with ⟨_, -, -, e⟩ | ⟨-, -, e⟩ | ⟨-, e⟩ | ⟨-, e⟩ | ⟨-, -, e⟩ | ⟨-, -, e⟩
    case inr.inl =>
      obtain ⟨u, hu, hmem, -, -, hparams⟩ := commandStep_keepsMemory (trunc32 d) { s with host := rest }
      cases (e.trans hu).symm.trans h
      exact ⟨hparams, .inl hmem⟩
    all_goals
      cases e.symm.trans h
      exact ⟨rfl, .inl rfl⟩
  · cases e.symm.trans h
  · cases e.symm.trans h
    exact ⟨rfl, .inr ⟨a, b, rest, hh, rfl⟩⟩
  · cases e.symm.trans h
    exact ⟨rfl, .inl rfl⟩

/-- Settles O36: commands by the cases of `exec`, the sequencer by its frame, all transitions by `step_mem_cases`. -/
theorem onlyTheHostWritesMemory : Obligations.OnlyTheHostWritesMemory :=
  ⟨exec_keepsMemory, fun s hh => ⟨_, step_of_no_host hh, sequencerStep_keepsMemory s⟩, fun _ _ => step_mem_cases⟩

/-! ### A window written while its hash runs -/

theorem State.promised_of_dutyBroken {s : State} (h : s.dutyBroken = true) (slot : Nat) (v : Word) :
    s.promised slot v = Config.freeWord s.draws slot := by
  simp [State.promised, h]

theorem toNat_zext64_trunc32 (v : Word) : (zext64 (trunc32 v)).toNat = v.toNat % 2 ^ 32 := by
  rw [zext64, BitVec.toNat_setWidth_of_le (by omega), trunc32, BitVec.toNat_setWidth]

/-- Settles O41: the finish step of each mode delivers promised values, and a broken duty leaves those open. -/
theorem brokenDutyLeavesTheDigestOpen : Obligations.BrokenDutyLeavesTheDigestOpen := by
  intro s hp hh hb
  have hfree := State.promised_of_dutyBroken hb
  have hstep : step s = .next (finishStep s) := by
    rw [step_of_no_host hh, sequencerStep, hp]
  refine ⟨_, hstep, ?_⟩
  unfold finishStep
  cases hm : s.mode
  · simp [fin32, hfree, toNat_zext64_trunc32]
  · simp [fin64, hfree]
  · simp [fin128, deliver128, hfree]
  · simp [finCm, deliver128, hfree]

end Sys2Proof.Machine
end

section
/-! What the engines read (spec/20_memory.md R54; files 42 to 44): every offset an engine fetches at lies inside the message, so
messages that agree on their bytes give the same words, pair by pair and round by round. -/

namespace Sys2Proof.Machine

/-! ### Reads inside the message -/

/-- The messages agree on every byte at an offset below `n`. -/
def SameBytes (n : Word) (m m' : Message) : Prop := ∀ o : Word, o.toNat < n.toNat → m'.fetch8 o = m.fetch8 o

/-- A multi-byte read is the byte reads at its offsets, the lowest least significant (R51, R114). -/
theorem Message.fetch32_eq (m : Message) (o : Word) :
    m.fetch32 o = m.fetch8 (o + 3) ++ m.fetch8 (o + 2) ++ m.fetch8 (o + 1) ++ m.fetch8 o := by
  simp only [Message.fetch32, Message.fetch8, memRead32, BitVec.add_assoc]

theorem Message.fetch64_eq (m : Message) (o : Word) : m.fetch64 o = m.fetch32 (o + 4) ++ m.fetch32 o := by
  simp only [Message.fetch64, Message.fetch32, memRead64_eq_append, BitVec.add_assoc]

section
variable {n : Word} {m m' : Message}

theorem SameBytes.fetch8 (h : SameBytes n m m') {o : Word} (ho : o.toNat + 1 ≤ n.toNat) : m'.fetch8 o = m.fetch8 o := h o ho

theorem SameBytes.fetch32 (h : SameBytes n m m') {o : Word} (ho : o.toNat + 4 ≤ n.toNat) : m'.fetch32 o = m.fetch32 o := by
  rw [Message.fetch32_eq, Message.fetch32_eq, h.fetch8 (o := o + 3) (by bv_omega), h.fetch8 (o := o + 2) (by bv_omega),
    h.fetch8 (o := o + 1) (by bv_omega), h.fetch8 (o := o) (by omega)]

theorem SameBytes.fetch64 (h : SameBytes n m m') {o : Word} (ho : o.toNat + 8 ≤ n.toNat) : m'.fetch64 o = m.fetch64 o := by
  rw [Message.fetch64_eq, Message.fetch64_eq, h.fetch32 (o := o + 4) (by bv_omega), h.fetch32 (o := o) (by omega)]

theorem SameBytes.weakm (h : SameBytes n m m') {o : Word} (ho : o.toNat + 32 ≤ n.toNat) (a b : Word) :
    m'.weakm o a b = m.weakm o a b := by
  rw [Message.weakm, Message.weakm, h.fetch64 (o := o) (by omega), h.fetch64 (o := o + 8) (by bv_omega),
    h.fetch64 (o := o + 16) (by bv_omega), h.fetch64 (o := o + 24) (by bv_omega)]

/-! ### The 32-bit engine -/

theorem foldBytes_congr (h : SameBytes n m m') (e : ByteExt) (k : Nat) (hk : k ≤ n.toNat) :
    foldBytes e m' k = foldBytes e m k := by
  induction k with
  | zero => rfl
  | succ k ih =>
    have hlt : (BitVec.ofNat 64 k).toNat + 1 ≤ n.toNat := by
      rw [BitVec.toNat_ofNat, Nat.mod_eq_of_lt (by omega)]
      exact hk
    simp only [foldBytes, ih (by omega), h.fetch8 hlt]

theorem h32_0to4_congr (h : SameBytes n m m') (e : ByteExt) : h32_0to4 e m' n = h32_0to4 e m n := by
  simp only [h32_0to4, foldBytes_congr h e n.toNat le_rfl]

/-- The middle read of R122 lies inside the message. -/
theorem middle_offset_inside (h5 : 5 ≤ n.toNat) (h12 : n.toNat ≤ 12) : ((n >>> 1) &&& 4).toNat + 4 ≤ n.toNat := by
  obtain ⟨k, hk⟩ : ∃ k, n.toNat = k := ⟨_, rfl⟩
  obtain rfl : n = BitVec.ofNat 64 k := by rw [← hk, BitVec.ofNat_toNat, BitVec.setWidth_eq]
  rw [hk] at h5 h12
  interval_cases k <;> decide

theorem h32_5to12_congr (h : SameBytes n m m') (h5 : 5 ≤ n.toNat) (h12 : n.toNat ≤ 12) :
    h32_5to12 m' n = h32_5to12 m n := by
  simp (disch := bv_omega) only [h32_5to12, h.fetch32 (middle_offset_inside h5 h12), h.fetch32]

theorem h32_13to24_congr (h : SameBytes n m m') (h13 : 13 ≤ n.toNat) : h32_13to24 m' n = h32_13to24 m n := by
  simp (disch := bv_omega) only [h32_13to24, h.fetch32]

theorem seed32_congr (h : SameBytes n m m') (h25 : 25 ≤ n.toNat) (w : Work) : seed32 m' n w = seed32 m n w := by
  simp (disch := bv_omega) only [seed32, h.fetch32]

theorem round32_congr (h : SameBytes n m m') {p : Word} (hp : p.toNat + 20 ≤ n.toNat) (w : Work) :
    round32 m' p w = round32 m p w := by
  simp (disch := bv_omega) only [round32, h.fetch32]

/-! ### The 64-bit engine -/

theorem h64_0to16_congr (h : SameBytes n m m') {o k : Word} (hok : o.toNat + k.toNat ≤ n.toNat) :
    h64_0to16 m' o k = h64_0to16 m o k := by
  unfold h64_0to16
  split
  · simp (disch := bv_omega) only [h.fetch64]
  · split
    · simp (disch := bv_omega) only [h.fetch32]
    · split
      · simp (disch := bv_omega) only [h.fetch8]
      · rfl

theorem h64_17to32_congr (h : SameBytes n m m') (h17 : 17 ≤ n.toNat) : h64_17to32 m' n = h64_17to32 m n := by
  simp (disch := bv_omega) only [h64_17to32, h.fetch64]

theorem h64_33to64_congr (h : SameBytes n m m') (h33 : 33 ≤ n.toNat) : h64_33to64 m' n = h64_33to64 m n := by
  simp (disch := bv_omega) only [h64_33to64, h.fetch64]

theorem seed64_congr (h : SameBytes n m m') (h65 : 65 ≤ n.toNat) (w : Work) : seed64 m' n w = seed64 m n w := by
  simp (disch := bv_omega) only [seed64, h.fetch64, h.weakm]

theorem round64_congr (h : SameBytes n m m') {p : Word} (hp : p.toNat + 64 ≤ n.toNat) (w : Work) :
    round64 m' p w = round64 m p w := by
  simp (disch := bv_omega) only [round64, h.fetch64, h.weakm]

/-! ### The 128-bit engine -/

theorem cmShort_congr (h : SameBytes n m m') (lo hi : Word) {soff k : Word} (hk : soff.toNat + k.toNat ≤ n.toNat) :
    cmShort m' lo hi soff k = cmShort m lo hi soff k := by
  unfold cmShort
  rw [h64_0to16_congr h hk]
  split
  · rw [h.fetch64 (o := soff) (by omega)]
  · rfl

theorem seedCm_congr (h : SameBytes n m m') (lo hi : Word) {soff k : Word} (h17 : 17 ≤ k.toNat)
    (hk : soff.toNat + k.toNat ≤ n.toNat) (w : Work) : seedCm m' lo hi soff k w = seedCm m lo hi soff k w := by
  simp (disch := bv_omega) only [seedCm, h.fetch64]

theorem roundCm_congr (h : SameBytes n m m') {p : Word} (hp : p.toNat + 16 ≤ n.toNat) (w : Work) :
    roundCm m' p w = roundCm m p w := by
  simp (disch := bv_omega) only [roundCm, h.fetch64]

theorem seed128_congr (h : SameBytes n m m') (lo hi : Word) {soff k : Word} (h128 : 128 ≤ k.toNat)
    (hk : soff.toNat + k.toNat ≤ n.toNat) (w : Work) : seed128 m' lo hi soff k w = seed128 m lo hi soff k w := by
  simp (disch := bv_omega) only [seed128, h.fetch64]

theorem round128_congr (h : SameBytes n m m') {p : Word} (hp : p.toNat + 128 ≤ n.toNat) (w : Work) :
    round128 m' p w = round128 m p w := by
  rw [round128, round128, round64_congr h (p := p + 64) (by bv_omega), round64_congr h (p := p) (by omega)]

theorem tailChunk_congr (h : SameBytes n m m') {q : Word} (hq : q.toNat + 32 ≤ n.toNat) (w : Work) :
    tailChunk m' q w = tailChunk m q w := by
  simp (disch := bv_omega) only [tailChunk, h.fetch64, h.weakm]

/-- The first `k` chunks of the tail walk reach back `32 * k` bytes from the end of the message, into the groups before the
tail where `rem` is no multiple of 32 (R172). -/
theorem tailWalk_congr (h : SameBytes n m m') {pos rem : Word} (hend : pos.toNat + rem.toNat ≤ n.toNat) (w : Work) (k : Nat)
    (hk : 32 * k ≤ pos.toNat + rem.toNat) : tailWalk m' pos rem k w = tailWalk m pos rem k w := by
  induction k with
  | zero => rfl
  | succ k ih =>
    have hback : (32 * BitVec.ofNat 64 (k + 1)).toNat = 32 * (k + 1) := by
      rw [BitVec.toNat_mul, BitVec.toNat_ofNat, show (32 : Word).toNat = 32 from rfl]
      omega
    have hchunk : (pos + rem - 32 * BitVec.ofNat 64 (k + 1)).toNat + 32 ≤ n.toNat := by
      bv_omega
    rw [tailWalk, tailWalk, ih (by omega), tailChunk_congr h hchunk]

theorem finish128_congr (h : SameBytes n m m') {pos : Word} {w : Work} (hpos : 128 ≤ pos.toNat)
    (hend : pos.toNat + w.mlen.toNat % 128 ≤ n.toNat) : finish128 m' pos w = finish128 m pos w := by
  have hrem : (w.mlen % 128).toNat = w.mlen.toNat % 128 := BitVec.toNat_umod
  have hwalk := tailWalk_congr h (pos := pos) (rem := w.mlen % 128) (by rw [hrem]; exact hend) (mixFinish128 w)
    (tailChunks (w.mlen % 128)) (by unfold tailChunks; omega)
  simp only [finish128, hwalk]

end

end Sys2Proof.Machine
end

section
/-! The message window (spec/20_memory.md R54): a memory that agrees on the window takes every command, loop step and finish step
to the same state, but for the memory. -/

namespace Sys2Proof.Machine

/-! ### Another memory in the state -/

/-- The state with another message memory. -/
def State.withMem (s : State) (m : Memory) : State := { s with mem := m }

section
variable (s : State) (m : Memory)

@[simp] theorem State.withMem_work : (s.withMem m).work = s.work := rfl
@[simp] theorem State.withMem_phase : (s.withMem m).phase = s.phase := rfl
@[simp] theorem State.withMem_mode : (s.withMem m).mode = s.mode := rfl
@[simp] theorem State.withMem_pos : (s.withMem m).pos = s.pos := rfl
@[simp] theorem State.withMem_len : (s.withMem m).len = s.len := rfl
@[simp] theorem State.withMem_params : (s.withMem m).params = s.params := rfl

theorem State.complete_withMem (w : BitVec 8) (d0 d1 : Word) :
    (s.withMem m).complete w d0 d1 = (s.complete w d0 d1).withMem m := rfl

theorem State.enterLoop_withMem (md : Mode) (pos cnt : Word) (w : Work) :
    (s.withMem m).enterLoop md pos cnt w = (s.enterLoop md pos cnt w).withMem m := rfl

theorem State.advance_withMem (g : Word) (w : Work) : (s.withMem m).advance g w = (s.advance g w).withMem m := rfl

end

section
variable {s : State} {m : Memory}

/-- Where a check reads no memory, each of its branches may be looked at alone. -/
theorem State.ite_withMem {c : Prop} [Decidable c] {t u t' u' : State} (ht : c → t' = t.withMem m)
    (hu : ¬ c → u' = u.withMem m) : (if c then t' else u') = (if c then t else u).withMem m := by
  split
  · exact ht ‹_›
  · exact hu ‹_›

/-- A memory that agrees on a window that does not wrap gives the same message (R34, R54). -/
theorem sameBytes_of_sameWindow (hwin : s.base.toNat + s.len.toNat ≤ 2 ^ 64) (h : SameWindow s m) :
    SameBytes s.len s.msg (s.withMem m).msg := by
  intro o ho
  have haddr : (s.base + o).toNat = s.base.toNat + o.toNat := BitVec.toNat_add_of_lt (by omega)
  exact h (s.base + o).toNat (by omega) (by omega)

/-! ### Start steps -/

theorem start32_withMem (h : SameBytes s.len s.msg (s.withMem m).msg) :
    start32 (s.withMem m) = (start32 s).withMem m := by
  simp only [start32, State.withMem_len, State.withMem_params, State.withMem_work]
  refine State.ite_withMem (fun _ => ?_) fun h4 => State.ite_withMem (fun h12 => ?_) fun h12 =>
    State.ite_withMem (fun _ => ?_) fun h24 => ?_
  · rw [h32_0to4_congr h, State.complete_withMem]
  · rw [h32_5to12_congr h (by omega) h12, State.complete_withMem]
  · rw [h32_13to24_congr h (by omega), State.complete_withMem]
  · rw [seed32_congr h (by omega), State.enterLoop_withMem]

theorem start64_withMem (h : SameBytes s.len s.msg (s.withMem m).msg) :
    start64 (s.withMem m) = (start64 s).withMem m := by
  simp only [start64, State.withMem_len, State.withMem_params, State.withMem_work]
  refine State.ite_withMem (fun _ => ?_) fun h16 => State.ite_withMem (fun _ => ?_) fun h32 =>
    State.ite_withMem (fun _ => ?_) fun h64 => ?_
  · rw [h64_0to16_congr h (by simp), State.complete_withMem]
  · rw [h64_17to32_congr h (by omega), State.complete_withMem]
  · rw [h64_33to64_congr h (by omega), State.complete_withMem]
  · rw [seed64_congr h (by omega), State.enterLoop_withMem]

theorem body128_withMem (h : SameBytes s.len s.msg (s.withMem m).msg) (lo hi : Word) {soff k : Word}
    (hk : soff.toNat + k.toNat ≤ s.len.toNat) :
    body128 (s.withMem m) lo hi soff k = (body128 s lo hi soff k).withMem m := by
  simp only [body128, State.withMem_work]
  refine State.ite_withMem (fun h128 => ?_) fun _ => State.ite_withMem (fun _ => ?_) fun h16 => ?_
  · rw [seed128_congr h lo hi h128 hk, State.enterLoop_withMem]
  · rw [cmShort_congr h lo hi hk, State.complete_withMem]
  · rw [seedCm_congr h lo hi (by omega) hk, State.enterLoop_withMem]

theorem start128_withMem (h : SameBytes s.len s.msg (s.withMem m).msg) :
    start128 (s.withMem m) = (start128 s).withMem m := by
  simp only [start128, State.withMem_len]
  refine State.ite_withMem (fun h16 => ?_) fun _ => body128_withMem h _ _ (by simp)
  rw [h.fetch64 (o := 0) (by bv_omega), h.fetch64 (o := 8) (by bv_omega), body128_withMem h _ _ (by bv_omega)]

theorem start128s_withMem (h : SameBytes s.len s.msg (s.withMem m).msg) :
    start128s (s.withMem m) = (start128s s).withMem m :=
  body128_withMem h _ _ (by simp)

theorem startHash_withMem (w : BitVec 8) (h : SameBytes s.len s.msg (s.withMem m).msg) :
    startHash w (s.withMem m) = (startHash w s).withMem m :=
  State.ite_withMem (fun _ => start32_withMem h) fun _ =>
    State.ite_withMem (fun _ => start64_withMem h) fun _ => start128_withMem h

/-! ### Commands -/

/-- The checks of R187 read no memory, and the start step runs only where the window does not wrap. -/
theorem State.acceptHash_withMem (ok : Bool) {start : State → State} (h : SameWindow s m)
    (hstart : SameBytes s.len s.msg (s.withMem m).msg →
      start (s.withoutDigest.withMem m) = (start s.withoutDigest).withMem m) :
    (s.withMem m).acceptHash ok start = (s.acceptHash ok start).withMem m := by
  refine State.ite_withMem (fun _ => rfl) fun _ => State.ite_withMem (fun _ => rfl) fun _ =>
    State.ite_withMem (fun _ => rfl) fun hw => hstart (sameBytes_of_sameWindow ?_ h)
  have hwin : ¬ 2 ^ 64 < s.base.toNat + s.len.toNat := fun hlt => hw ((State.windowWraps_iff s).mpr hlt)
  omega

/-- A message read either raises, before any byte is read, or lies inside a window that does not wrap (R208). -/
theorem messageRead_withMem (h : SameWindow s m) {o : Word} {k : Nat} {t t' : State}
    (hread : SameBytes s.len s.msg (s.withMem m).msg → o.toNat + k ≤ s.len.toNat → t' = t.withMem m) :
    ∃ u, (if s.outOfBounds o k then .next (s.raise .bounds) else .next t) =
        (.next u : Host.Outcome State Fault Refusal) ∧
      (if (s.withMem m).outOfBounds o k then .next ((s.withMem m).raise .bounds) else .next t') =
        (.next (u.withMem m) : Host.Outcome State Fault Refusal) := by
  by_cases hout : s.outOfBounds o k = true
  · exact ⟨_, if_pos hout, if_pos hout⟩
  · have hin := hout
    rw [State.outOfBounds_iff, State.windowWraps_iff] at hin
    have hread' := hread (sameBytes_of_sameWindow (by omega) h) (by omega)
    exact ⟨_, if_neg hout, (if_neg hout).trans (congrArg _ hread')⟩

/-- A memory that agrees on the window takes every command to the same state, but for the memory (R54). -/
theorem exec_withMem (i : Instr) (h : SameWindow s m) :
    ∃ t, exec i s = .next t ∧ exec i (s.withMem m) = .next (t.withMem m) := by
  cases i
  case weakm rs1 =>
    exact messageRead_withMem h fun hb hin => congrArg (fun p => (s.resultPair p).withMem m) (hb.weakm hin _ _)
  case ld8 rd rs1 =>
    exact messageRead_withMem h fun hb hin =>
      congrArg (fun b : Byte => (s.result64 rd (b.setWidth 64)).withMem m) (hb.fetch8 hin)
  case ld32 rd rs1 =>
    exact messageRead_withMem h fun hb hin => congrArg (fun v => (s.result32 rd v).withMem m) (hb.fetch32 hin)
  case ld64 rd rs1 =>
    exact messageRead_withMem h fun hb hin => congrArg (fun v => (s.result64 rd v).withMem m) (hb.fetch64 hin)
  case hash w =>
    exact ⟨_, rfl, congrArg _ (State.acceptHash_withMem _ h (startHash_withMem (s := s.withoutDigest) w))⟩
  case hash128s =>
    exact ⟨_, rfl, congrArg _ (State.acceptHash_withMem _ h (start128s_withMem (s := s.withoutDigest)))⟩
  all_goals exact ⟨_, rfl, rfl⟩

/-- Settles O38, by `exec_withMem`: the message reads and the hashes one by one, every other command reads no memory. -/
theorem commandsReadOnlyTheWindow : Obligations.CommandsReadOnlyTheWindow := fun i _ _ h => exec_withMem i h

/-! ### Loop and finish steps -/

/-- A group inside the message is consumed alike (R125, R147, R165, R171). -/
theorem consumeGroup_withMem (h : SameBytes s.len s.msg (s.withMem m).msg) (hin : s.pos.toNat + s.mode.group ≤ s.len.toNat) :
    consumeGroup (s.withMem m) = (consumeGroup s).withMem m := by
  simp only [consumeGroup_eq, State.withMem_mode, State.withMem_pos, State.withMem_work, State.advance_withMem]
  cases hm : s.mode <;> rw [hm] at hin
  · exact congrArg (fun w => (s.advance 20 w).withMem m) (round32_congr h hin s.work)
  · exact congrArg (fun w => (s.advance 64 w).withMem m) (round64_congr h hin s.work)
  · exact congrArg (fun w => (s.advance 128 w).withMem m) (round128_congr h hin s.work)
  · exact congrArg (fun w => (s.advance 16 w).withMem m) (roundCm_congr h hin s.work)

/-- At the finish step of mode `M128` at least one group is consumed and the tail is the rest of the message (R170, R172). -/
theorem State.Inv.tail_inside (hs : s.Inv) (hp : s.phase = .fin) (hm : s.mode = .m128) :
    128 ≤ s.pos.toNat ∧ s.pos.toNat + s.work.mlen.toNat % 128 ≤ s.len.toNat := by
  have hbusy : s.phase ≠ .idle := by simp [hp]
  have hpos := hs.position hbusy
  have hlong := hs.long hbusy
  have hcnt : s.cnt.toNat = 0 := by rw [hs.finLeft hp]; rfl
  simp only [State.longEnough, State.bodyIsTail, State.loopStart, State.loopCount, hm, hcnt, Mode.group] at hpos hlong
  obtain ⟨h128, -, htail⟩ := hlong
  omega

/-- Only mode `M128` reads the message in its finish step (R126, R148, R166, R172). -/
theorem finishStep_withMem (hs : s.Inv) (hp : s.phase = .fin) (h : SameBytes s.len s.msg (s.withMem m).msg) :
    finishStep (s.withMem m) = (finishStep s).withMem m := by
  simp only [finishStep, State.withMem_mode]
  cases hm : s.mode
  case m128 =>
    obtain ⟨hpos, hend⟩ := hs.tail_inside hp hm
    simp only [fin128, State.withMem_pos, State.withMem_work, finish128_congr h hpos hend]
    rfl
  all_goals rfl

theorem sequencerStep_withMem (hs : s.Inv) (h : SameWindow s m) :
    sequencerStep (s.withMem m) = (sequencerStep s).withMem m := by
  have hsame (hbusy : s.phase ≠ .idle) : SameBytes s.len s.msg (s.withMem m).msg := by
    obtain ⟨-, -, hwin⟩ := hs.running hbusy
    exact sameBytes_of_sameWindow hwin h
  simp only [sequencerStep, State.withMem_phase]
  cases hp : s.phase
  case idle => rfl
  case loop =>
    have hloop := consumeGroup_withMem (hsame (by simp [hp])) (hs.group_inside hp)
    exact State.ite_withMem (fun _ => rfl) fun _ => hloop
  case fin => exact finishStep_withMem hs hp (hsame (by simp [hp]))

/-- Settles O39: without a host move a step is the sequencer's own, and `sequencerStep_withMem` is about that. -/
theorem loopAndFinishReadOnlyTheWindow : Obligations.LoopAndFinishReadOnlyTheWindow := fun s m hs hh h =>
  ⟨_, step_of_no_host hh, (step_of_no_host (s := s.withMem m) hh).trans (congrArg _ (sequencerStep_withMem hs h))⟩

end

end Sys2Proof.Machine
end

section
/-! Command words (spec/30_encoding.md R70 to R77): the decoder and the encoder are inverse to each other, and the decoder, the
check of unused fields and the table's masks and matches accept the same words. -/

namespace Sys2Proof

/-! ### A word by its fields -/

/-- A word is the command word of six fields exactly when these are what stands in it (R70). -/
theorem commandWord_eq_iff {op : BitVec 8} {rd rs1 rs2 rs3 : Reg} {imm8 : BitVec 8} {w : BitVec 32} :
    commandWord op rd rs1 rs2 rs3 imm8 = w ↔
      opField w = op ∧ rdField w = rd ∧ rs1Field w = rs1 ∧ rs2Field w = rs2 ∧ rs3Field w = rs3 ∧ immField w = imm8 := by
  constructor
  · rintro rfl
    exact ⟨opField_commandWord .., rdField_commandWord .., rs1Field_commandWord .., rs2Field_commandWord ..,
      rs3Field_commandWord .., immField_commandWord ..⟩
  · rintro ⟨rfl, rfl, rfl, rfl, rfl, rfl⟩
    exact commandWord_fields w

theorem fieldsOfWord_eq (w : BitVec 32) :
    fieldsOfWord w = ⟨opField w, regBits (rdField w), regBits (rs1Field w), regBits (rs2Field w), regBits (rs3Field w),
      immField w⟩ := rfl

theorem regBits_beq_zero (r : Reg) : (regBits r == 0#4) = (r == 0) := by
  revert r
  decide

/-- The encoder writes the command's fields into the word (R70, R74). -/
theorem fieldsOfWord_encode (i : Instr) : fieldsOfWord (encode i) = i.fields := by
  cases i <;>
    (rw [fieldsOfWord_eq, encode, opField_commandWord, rdField_commandWord, rs1Field_commandWord, rs2Field_commandWord,
      rs3Field_commandWord, immField_commandWord]
     rfl)

/-! ### The decoder and the encoder -/

theorem onlyIf_eq_some_iff {c : Bool} {i j : Instr} : onlyIf c i = some j ↔ c = true ∧ i = j := by
  simp [onlyIf]

theorem isSome_onlyIf (c : Bool) (i : Instr) : (onlyIf c i).isSome = c := by
  cases c <;> rfl

/-- Command by command: the opcode leads to the command's own row, and its unused fields are zero. -/
theorem decode_encode (i : Instr) : decode (encode i) = some i := by
  cases i <;>
    simp [encode, decode, onlyIf, opField_commandWord, rdField_commandWord, rs1Field_commandWord, rs2Field_commandWord,
      rs3Field_commandWord, immField_commandWord]

/-- Row by row: the opcode and the fields tested for zero are what the encoder puts there. -/
theorem encode_of_decode {w : BitVec 32} {i : Instr} (h : decode w = some i) : encode i = w := by
  have hop : opField w = BitVec.ofNat 8 (opField w).toNat := (BitVec.ofNat_toNat 8 _).trans (BitVec.setWidth_eq _) |>.symm
  unfold decode at h
  dsimp only at h
  split at h
  case h_21 => cases h -- an opcode outside the table (R76)
  all_goals
    rename_i hrow
    rw [hrow] at hop
    obtain ⟨hz, rfl⟩ := onlyIf_eq_some_iff.mp h
    simp only [Bool.and_eq_true, beq_iff_eq] at hz
    simp only [encode, commandWord_eq_iff, hop, hz, and_self, BitVec.ofNat_eq_ofNat]

/-- A word decodes to a command exactly when it is the command's encoding. -/
theorem decode_eq_some_iff {w : BitVec 32} {i : Instr} : decode w = some i ↔ encode i = w :=
  ⟨encode_of_decode, fun h => h ▸ decode_encode i⟩

/-- No operand makes a command's own fields illegal (R71). -/
theorem wellFormed_eq_true (i : Instr) : i.wellFormed = true := by
  cases i <;> rfl

theorem fieldsOfWord_of_decode {w : BitVec 32} {i : Instr} (h : decode w = some i) : fieldsOfWord w = i.fields := by
  rw [← encode_of_decode h, fieldsOfWord_encode]

/-- Settles O1, by `decode_encode`. -/
theorem decodeInvertsEncode : Obligations.DecodeInvertsEncode := fun i _ => decode_encode i

/-- Settles O2, by `encode_of_decode`. -/
theorem encodeInvertsDecode : Obligations.EncodeInvertsDecode := fun _ i h => ⟨encode_of_decode h, wellFormed_eq_true i⟩

/-! ### The check of unused fields -/

/-- Every field that the usage `u` leaves out is zero (R71). -/
def Usage.unusedZero (u : Usage) (f : Fields) : Bool :=
  (u.rd || f.rd == 0) && (u.rs1 || f.rs1 == 0) && (u.rs2 || f.rs2 == 0) && (u.rs3 || f.rs3 == 0) && (u.imm8 || f.imm8 == 0)

theorem Fields.legal_of_usageOf {f : Fields} {u : Usage} (h : usageOf f.op = some u) : f.legal = u.unusedZero f := by
  rw [Fields.legal, h]
  rfl

theorem Fields.exists_usageOf {f : Fields} (h : f.legal = true) : ∃ u, usageOf f.op = some u := by
  cases hu : usageOf f.op with
  | none => simp [Fields.legal, hu] at h
  | some u => exact ⟨u, rfl⟩

/-- Row by row, the decoder tests the fields that the table says are unused (R71, R76). -/
theorem isSome_decode_of_usageOf {w : BitVec 32} {u : Usage} (hu : usageOf (opField w) = some u) :
    (decode w).isSome = u.unusedZero (fieldsOfWord w) := by
  unfold usageOf at hu
  split at hu
  case h_21 => cases hu -- an opcode outside the table (R76)
  all_goals
    rename_i hop
    cases hu
    simp only [decode, hop, isSome_onlyIf, Usage.unusedZero, fieldsOfWord_eq, BitVec.ofNat_eq_ofNat, regBits_beq_zero,
      Bool.false_or, Bool.true_or, Bool.true_and, Bool.and_true]

/-- The decoder accepts a word exactly when its fields pass the check of R71. -/
theorem isSome_decode (w : BitVec 32) : (decode w).isSome = (fieldsOfWord w).legal := by
  rw [Bool.eq_iff_iff]
  constructor
  · intro hsome
    obtain ⟨i, hi⟩ := Option.isSome_iff_exists.mp hsome
    rw [fieldsOfWord_of_decode hi]
    exact wellFormed_eq_true i
  · intro hlegal
    obtain ⟨u, hu⟩ := Fields.exists_usageOf hlegal
    rwa [isSome_decode_of_usageOf hu, ← Fields.legal_of_usageOf hu]

/-! ### Masks and matches -/

theorem append_eq_append_iff {m n : Nat} {x x' : BitVec m} {y y' : BitVec n} : x ++ y = x' ++ y' ↔ x = x' ∧ y = y' := by
  refine ⟨fun h => ⟨?_, ?_⟩, fun ⟨hx, hy⟩ => by rw [hx, hy]⟩
  · simpa [BitVec.extractLsb'_append_eq_left] using congrArg (BitVec.extractLsb' n m) h
  · simpa [BitVec.extractLsb'_append_eq_right] using congrArg (BitVec.extractLsb' 0 n) h

/-- One more field on the right of a masked comparison, under a mask of ones where the field is unused: the comparison holds
when the field is used or zero. -/
theorem append_and_unusedMask_eq_iff {m n : Nat} {x a p : BitVec m} {ones : BitVec n} {P : Prop} (h : x &&& a = p ↔ P)
    (hones : ones = BitVec.allOnes n) (used : Bool) (y : BitVec n) :
    (x ++ y) &&& (a ++ if used then 0 else ones) = p ++ 0#n ↔ P ∧ (used || y == 0) = true := by
  rw [BitVec.and_append, append_eq_append_iff, h]
  cases used <;> simp [hones]

/-- A match: an opcode above zero fields (R71). -/
theorem opcode_append_zero (op : BitVec 8) : op ++ (0 : BitVec 24) = op ++ 0#4 ++ 0#4 ++ 0#4 ++ 0#4 ++ 0#8 := by
  apply BitVec.eq_of_toNat_eq
  simp only [toNat_append_eq, BitVec.ofNat_eq_ofNat, BitVec.toNat_ofNat]
  omega

/-- The test `w & mask = match`, field by field (R70, R71). -/
theorem and_mask_eq_iff (w : BitVec 32) (u : Usage) (op : BitVec 8) :
    w &&& u.mask = op ++ (0 : BitVec 24) ↔ opField w = op ∧ u.unusedZero (fieldsOfWord w) = true := by
  have hop : opField w &&& BitVec.allOnes 8 = op ↔ opField w = op := by rw [BitVec.and_allOnes]
  have hrd := append_and_unusedMask_eq_iff hop (ones := 0xF#4) rfl u.rd (regBits (rdField w))
  have hrs1 := append_and_unusedMask_eq_iff hrd (ones := 0xF#4) rfl u.rs1 (regBits (rs1Field w))
  have hrs2 := append_and_unusedMask_eq_iff hrs1 (ones := 0xF#4) rfl u.rs2 (regBits (rs2Field w))
  have hrs3 := append_and_unusedMask_eq_iff hrs2 (ones := 0xF#4) rfl u.rs3 (regBits (rs3Field w))
  have himm8 := append_and_unusedMask_eq_iff hrs3 (ones := 0xFF#8) rfl u.imm8 (immField w)
  conv_lhs => rw [← commandWord_fields w, opcode_append_zero]
  refine Iff.trans himm8 ?_
  simp only [Usage.unusedZero, fieldsOfWord_eq, Bool.and_eq_true, and_assoc]

/-! ### The opcode table -/

/-- The opcode of a row, the top byte of its match (R71). -/
def Row.opcode (r : Row) : BitVec 8 := r.pat.extractLsb' 24 8

/-- R71 of the table: a row's match is its opcode above zeros, its mask the one its used fields give. -/
theorem opcodeTable_match_mask :
    ∀ r ∈ opcodeTable, r.pat = r.opcode ++ (0 : BitVec 24) ∧ (usageOf r.opcode).map Usage.mask = some r.mask := by
  decide

/-- A word selects a row exactly when it has the row's opcode and its unused fields are zero (R71). -/
theorem selects_iff {r : Row} (hr : r ∈ opcodeTable) (w : BitVec 32) :
    r.selects w = true ↔ opField w = r.opcode ∧ (fieldsOfWord w).legal = true := by
  obtain ⟨hpat, hmask⟩ := opcodeTable_match_mask r hr
  obtain ⟨u, hu, hum⟩ := Option.map_eq_some_iff.mp hmask
  rw [Row.selects, beq_iff_eq, ← hum, hpat, and_mask_eq_iff]
  refine and_congr_right fun hop => ?_
  have hused : usageOf (fieldsOfWord w).op = some u := (congrArg usageOf hop).trans hu
  rw [Fields.legal_of_usageOf hused]

theorem eq_of_opcode_eq {r r' : Row} (hr : r ∈ opcodeTable) (hr' : r' ∈ opcodeTable) (h : r.opcode = r'.opcode) : r = r' :=
  List.inj_on_of_nodup_map (show (opcodeTable.map Row.opcode).Nodup by decide) hr hr' h

theorem eq_of_mnemonic_eq {r r' : Row} (hr : r ∈ opcodeTable) (hr' : r' ∈ opcodeTable) (h : r.mnemonic = r'.mnemonic) :
    r = r' :=
  List.inj_on_of_nodup_map (show (opcodeTable.map Row.mnemonic).Nodup by decide) hr hr' h

/-- Every command has its row (R74). -/
theorem exists_row (i : Instr) : ∃ r ∈ opcodeTable, r.mnemonic = i.mnemonic ∧ r.opcode = i.fields.op := by
  cases i <;> simp [opcodeTable, Row.opcode, Instr.mnemonic, Instr.fields]

/-- The mnemonic and the opcode name the same row. -/
theorem mnemonic_eq_iff {r : Row} (hr : r ∈ opcodeTable) (i : Instr) : i.mnemonic = r.mnemonic ↔ i.fields.op = r.opcode := by
  obtain ⟨ri, hri, hm, ho⟩ := exists_row i
  rw [← hm, ← ho]
  exact ⟨fun h => congrArg Row.opcode (eq_of_mnemonic_eq hri hr h), fun h => congrArg Row.mnemonic (eq_of_opcode_eq hri hr h)⟩

/-- A legal word has a command, whose fields are the word's; so its opcode and its mnemonic are the row's together. -/
theorem selects_iff_decode {r : Row} (hr : r ∈ opcodeTable) (w : BitVec 32) :
    r.selects w = true ↔ ∃ i, decode w = some i ∧ i.mnemonic = r.mnemonic := by
  have hfields {i : Instr} (hi : decode w = some i) : i.fields.op = opField w := by
    rw [← fieldsOfWord_of_decode hi, fieldsOfWord_eq]
  rw [selects_iff hr, ← isSome_decode]
  constructor
  · rintro ⟨hop, hsome⟩
    obtain ⟨i, hi⟩ := Option.isSome_iff_exists.mp hsome
    exact ⟨i, hi, (mnemonic_eq_iff hr i).mpr ((hfields hi).trans hop)⟩
  · rintro ⟨i, hi, hm⟩
    exact ⟨(hfields hi).symm.trans ((mnemonic_eq_iff hr i).mp hm), Option.isSome_iff_exists.mpr ⟨i, hi⟩⟩

/-- Settles O3: rows against commands by `selects_iff_decode`, illegal words by `isSome_decode`; two rows selected by one word
share its opcode. -/
theorem wordDecodesExactlyWhenItSelectsARow : Obligations.WordDecodesExactlyWhenItSelectsARow := by
  refine ⟨fun w r hr => selects_iff_decode hr w, fun w => ?_, fun w r hr r' hr' h h' => ?_, opcodeTable_match_mask⟩
  · rw [← isSome_decode, Option.isSome_eq_false_iff, Option.isNone_iff_eq_none]
  · obtain ⟨hop, -⟩ := (selects_iff hr w).mp h
    obtain ⟨hop', -⟩ := (selects_iff hr' w).mp h'
    exact eq_of_opcode_eq hr hr' (hop.symm.trans hop')

/-- Settles O4: by `decode_eq_some_iff`, each word is the encoding of its command. -/
theorem encodingExamplesDecode : Obligations.EncodingExamplesDecode := by
  simp only [Obligations.EncodingExamplesDecode, decode_eq_some_iff]
  decide

end Sys2Proof

namespace Sys2Proof.Machine

/-! ### An illegal word -/

/-- A raise writes `COND` and idles the sequencer (R203). -/
theorem raised_raise (c : Cond) (s : State) : Raised c s (s.raise c) :=
  ⟨State.raise_cond .., State.raise_phase .., ⟨fun _ _ => ⟨rfl, rfl⟩, ⟨rfl, rfl, rfl⟩, ⟨rfl, rfl, rfl⟩, fun _ => rfl⟩, rfl, rfl⟩

/-- Settles O6: the accepted write runs the command step of its low half, which raises `ILLEGAL_CMD`. -/
theorem illegalWordOnlySetsTheCondition : Obligations.IllegalWordOnlySetsTheCondition := by
  intro s d rest hp hh hd
  have hstep : step s = .next (State.raise { s with host := rest } .illegalCmd) := by
    rw [step_of_write_cmd hp hh, trunc32_eq_extractLsb', commandStep_of_illegal hd]
  exact ⟨_, hstep, raised_raise .., State.raise_dv .., State.raise_dw ..⟩

end Sys2Proof.Machine
end

section
/-! The bit-mixing primitives (spec/40_primitives.md R90 to R103): what a primitive command leaves, rotation, byte reversal and
the xor-shift by their bits, and the mixers and combiners over the natural numbers. -/

namespace Sys2Proof.Machine

/-! ### The end of a primitive command -/

@[simp] theorem State.result64_get (s : State) (rd : Reg) (v : Word) : (s.result64 rd v).x[rd] = v := by
  simp [State.result64]

@[simp] theorem State.result32_get (s : State) (rd : Reg) (v : Half) : (s.result32 rd v).x[rd] = zext64 v :=
  State.result64_get ..

/-- A primitive's end writes `x[rd]` and `COND`, and nothing else a claim speaks of (R90). -/
theorem wroteOnly_result64 (s : State) (rd : Reg) (v : Word) : WroteOnly rd s (s.result64 rd v) :=
  ⟨rfl, by simp [State.result64],
    ⟨sameOperandsBut_setX s rd v, ⟨rfl, rfl, rfl⟩, ⟨rfl, rfl, rfl⟩, fun _ => rfl⟩,
    ⟨rfl, rfl, rfl, rfl, rfl⟩, ⟨rfl, rfl, rfl, rfl⟩, rfl⟩

/-- A primitive command ends by writing `x[rd]`, in every state, with a value that does not depend on `CANCEL` (R90, R205). -/
theorem exec_primitive {i : Instr} {rd : Reg} (h : i.primitiveDest = some rd) (s : State) :
    ∃ v, exec i s = .next (s.result64 rd v) ∧
      ∀ c, exec i { s with cancel := c } = .next (State.result64 { s with cancel := c } rd v) := by
  cases i <;> cases h <;> exact ⟨_, rfl, fun _ => rfl⟩

/-- Settles O7, by the common end of the primitives (`exec_primitive`). -/
theorem primitivesWriteOnlyTheirDestination : Obligations.PrimitivesWriteOnlyTheirDestination := by
  intro i rd s h
  obtain ⟨v, he, hcancel⟩ := exec_primitive h s
  exact ⟨_, he, wroteOnly_result64 s rd v, hcancel⟩

/-! ### Width changes -/

theorem toNat_zext64 (v : Half) : (zext64 v).toNat = v.toNat :=
  BitVec.toNat_setWidth_of_le (by decide)

theorem toNat_trunc32 (v : Word) : (trunc32 v).toNat = v.toNat % 2 ^ 32 := BitVec.toNat_setWidth ..

theorem getLsbD_zext64 (v : Half) (j : Nat) : (zext64 v).getLsbD j = v.getLsbD j := by
  rw [zext64, BitVec.getLsbD_setWidth]
  by_cases hj : j < 64
  · simp [hj]
  · simp [hj, BitVec.getLsbD_of_ge v j (by omega)]

theorem getLsbD_trunc32 (v : Word) (j : Nat) : (trunc32 v).getLsbD j = (decide (j < 32) && v.getLsbD j) :=
  BitVec.getLsbD_setWidth ..

/-! ### Rotation -/

/-- Rotating right by `n` moves bit `(j + n) mod w` to bit `j`. -/
theorem getLsbD_rotateRight_eq_mod {w : Nat} (v : BitVec w) (n j : Nat) :
    (v.rotateRight n).getLsbD j = (decide (j < w) && v.getLsbD ((j + n) % w)) := by
  rw [BitVec.getLsbD_rotateRight]
  by_cases hj : j < w
  · have hjw : j % w = j := Nat.mod_eq_of_lt hj
    by_cases hlow : j < w - n % w
    · have hpos : (j + n) % w = j + n % w := by
        rw [Nat.add_mod_of_add_mod_lt (by omega), hjw]
      rw [hpos, Nat.add_comm j]
      simp [hj, hlow]
    · have hpos : (j + n) % w = j - (w - n % w) := by
        have hn := Nat.mod_lt n (Nat.zero_lt_of_lt hj)
        have hwrap := Nat.add_mod_add_of_le_add_mod (a := j) (b := n) (c := w) (by omega)
        omega
      simp [hj, hlow, hpos]
  · have hlow : ¬ j < w - n % w := by omega
    simp [hj, hlow]

/-- Rotating right as a number: the low `n mod w` bits go above the others. -/
theorem toNat_rotateRight_eq_natRotr {w : Nat} (hw : 0 < w) (v : BitVec w) (n : Nat) :
    (v.rotateRight n).toNat = natRotr w v.toNat n := by
  have hk := Nat.mod_lt n hw
  have hpow : 2 ^ w = 2 ^ (n % w) * 2 ^ (w - n % w) := by rw [← Nat.pow_add]; congr 1; omega
  have hhigh : v.toNat / 2 ^ (n % w) < 2 ^ (w - n % w) := by
    apply Nat.div_lt_of_lt_mul
    rw [← hpow]
    exact v.isLt
  rw [BitVec.toNat_rotateRight, Nat.shiftRight_eq_div_pow, Nat.shiftLeft_eq]
  conv_lhs => rw [hpow, Nat.mul_mod_mul_right, Nat.or_comm, ← Nat.shiftLeft_eq, ← Nat.shiftLeft_add_eq_or_of_lt hhigh]
  rw [natRotr, Nat.shiftLeft_eq, Nat.add_comm]

/-- R91's two cases are one rotation: at `k = 0` the left shift of the second would be by the whole width and give 0. -/
theorem rotr32_eq_rotateRight (v : Half) (n : Nat) : rotr32 v n = v.rotateRight n := by
  by_cases hn : n % 32 = 0 <;> simp [rotr32, BitVec.rotateRight, BitVec.rotateRightAux, hn]

/-- R93's two cases are one rotation. -/
theorem rotr64_eq_rotateRight (v : Word) (n : Nat) : rotr64 v n = v.rotateRight n := by
  by_cases hn : n % 64 = 0 <;> simp [rotr64, BitVec.rotateRight, BitVec.rotateRightAux, hn]

theorem toNat_rotr32 (v : Half) (n : Nat) : (rotr32 v n).toNat = natRotr 32 v.toNat n := by
  rw [rotr32_eq_rotateRight, toNat_rotateRight_eq_natRotr (by decide)]

/-- The end of a 32-bit rotation of a register's low half, bit by bit (R22, R91). -/
theorem result32_rotr32 (s : State) (rd : Reg) (v : Word) (n : Nat) :
    let t := s.result32 rd (rotr32 (trunc32 v) n)
    WroteOnly rd s t ∧ ∀ j, t.x[rd].getLsbD j = (decide (j < 32) && v.getLsbD ((j + n) % 32)) := by
  refine ⟨wroteOnly_result64 .., fun j => ?_⟩
  have hlow : (j + n) % 32 < 32 := Nat.mod_lt _ (by decide)
  rw [State.result32_get, getLsbD_zext64, rotr32_eq_rotateRight, getLsbD_rotateRight_eq_mod, getLsbD_trunc32,
    decide_eq_true hlow, Bool.true_and]

/-- The end of a 64-bit rotation, bit by bit (R93). -/
theorem result64_rotr64 (s : State) (rd : Reg) (v : Word) (n : Nat) :
    let t := s.result64 rd (rotr64 v n)
    WroteOnly rd s t ∧ ∀ j < 64, t.x[rd].getLsbD j = v.getLsbD ((j + n) % 64) := by
  refine ⟨wroteOnly_result64 .., fun j hj => ?_⟩
  rw [State.result64_get, rotr64_eq_rotateRight, getLsbD_rotateRight_eq_mod, decide_eq_true hj, Bool.true_and]

/-- Settles O8: both forms of the count end in `result32_rotr32`. -/
theorem rotateRight32MovesBits : Obligations.RotateRight32MovesBits := fun rd _ s =>
  ⟨fun _ => ⟨_, rfl, result32_rotr32 s rd _ _⟩, fun _ => ⟨_, rfl, result32_rotr32 s rd _ _⟩⟩

/-- Settles O9: both forms of the count end in `result64_rotr64`. -/
theorem rotateRight64MovesBits : Obligations.RotateRight64MovesBits := fun rd _ s =>
  ⟨fun _ => ⟨_, rfl, result64_rotr64 s rd _ _⟩, fun _ => ⟨_, rfl, result64_rotr64 s rd _ _⟩⟩

/-! ### Byte reversal -/

/-- Two words of `n` bytes with the same bytes are equal. -/
theorem eq_of_bytes_eq {n : Nat} {x y : BitVec (8 * n)}
    (h : ∀ k < n, x.extractLsb' (8 * k) 8 = y.extractLsb' (8 * k) 8) : x = y := by
  apply BitVec.eq_of_getLsbD_eq
  intro i hi
  have hbyte := congrArg (fun b : Byte => b.getLsbD (i % 8)) (h (i / 8) (by omega))
  simpa [BitVec.getLsbD_extractLsb', Nat.mod_lt, Nat.div_add_mod] using hbyte

/-- The bytes of a word: the lowest one, and those of the word above it. -/
theorem byte_append {n : Nat} (x : BitVec n) (b : Byte) (k : Nat) :
    (x ++ b).extractLsb' (8 * k) 8 = if k = 0 then b else x.extractLsb' (8 * (k - 1)) 8 := by
  cases k with
  | zero => exact BitVec.extractLsb'_append_eq_right
  | succ k => exact BitVec.extractLsb'_append_eq_of_le (by omega)

theorem bswap32_byte (v : Half) {k : Nat} (hk : k < 4) :
    (bswap32 v).extractLsb' (8 * k) 8 = v.extractLsb' (8 * (3 - k)) 8 := by
  simp only [bswap32, byte_append]
  interval_cases k <;> simp

theorem bswap64_byte (v : Word) {k : Nat} (hk : k < 8) :
    (bswap64 v).extractLsb' (8 * k) 8 = v.extractLsb' (8 * (7 - k)) 8 := by
  simp only [bswap64, byte_append]
  interval_cases k <;> simp

/-- A byte goes to the mirrored place and back. -/
theorem bswap32_bswap32 (v : Half) : bswap32 (bswap32 v) = v := by
  refine eq_of_bytes_eq (n := 4) fun k hk => ?_
  rw [bswap32_byte _ hk, bswap32_byte _ (by omega), show 3 - (3 - k) = k by omega]

theorem bswap64_bswap64 (v : Word) : bswap64 (bswap64 v) = v := by
  refine eq_of_bytes_eq (n := 8) fun k hk => ?_
  rw [bswap64_byte _ hk, bswap64_byte _ (by omega), show 7 - (7 - k) = k by omega]

/-- Settles O10, by the bytes of each reversal (`bswap32_byte`, `bswap64_byte`). -/
theorem byteReversalReversesBytes : Obligations.ByteReversalReversesBytes := by
  refine ⟨fun rd rs1 s => ⟨⟨_, rfl, wroteOnly_result64 .., ?_, fun k hk => ?_⟩,
    ⟨_, rfl, wroteOnly_result64 .., fun k hk => ?_⟩⟩, bswap32_bswap32, bswap64_bswap64⟩
  · rw [State.result32_get, toNat_zext64]
    exact (bswap32 _).isLt
  · rw [State.result32_get, zext64, BitVec.extractLsb'_setWidth_of_le (by omega), bswap32_byte _ hk, State.operand32, trunc32,
      BitVec.extractLsb'_setWidth_of_le (by omega)]
  · rw [State.result64_get, bswap64_byte _ hk]

/-! ### The xor-shift of the mixers -/

/-- `v ^ (v >> k)`, the step that the mixers and the combiner share (R97, R98, R100). -/
def xorShift {w : Nat} (k : Nat) (v : BitVec w) : BitVec w := v ^^^ (v >>> k)

section
variable {w : Nat} (k : Nat)

theorem getLsbD_xorShift (v : BitVec w) (j : Nat) : (xorShift k v).getLsbD j = (v.getLsbD j ^^ v.getLsbD (j + k)) := by
  rw [xorShift, BitVec.getLsbD_xor, BitVec.getLsbD_ushiftRight, Nat.add_comm]

theorem toNat_xorShift (v : BitVec w) : (xorShift k v).toNat = v.toNat ^^^ (v.toNat / 2 ^ k) := by
  rw [xorShift, BitVec.toNat_xor, BitVec.toNat_ushiftRight, Nat.shiftRight_eq_div_pow]

/-- Nothing is folded where no bit stands at `k` or above. -/
theorem xorShift_of_lt {v : BitVec w} (h : v.toNat < 2 ^ k) : xorShift k v = v := by
  apply BitVec.eq_of_toNat_eq
  rw [toNat_xorShift, Nat.div_eq_of_lt h, Nat.xor_zero]

/-- An xor-shift by at least one place is invertible: from the top bit down, each bit follows from those above. -/
theorem xorShift_injective (hk : 0 < k) : Function.Injective (xorShift k : BitVec w → BitVec w) := by
  intro u v huv
  have bits (d : Nat) : ∀ j, w - j ≤ d → u.getLsbD j = v.getLsbD j := by
    induction d with
    | zero => intro j hj; rw [BitVec.getLsbD_of_ge u j (by omega), BitVec.getLsbD_of_ge v j (by omega)]
    | succ d ih =>
      intro j hj
      have hbit := congrArg (fun x => x.getLsbD j) huv
      simp only [getLsbD_xorShift, ih (j + k) (by omega)] at hbit
      exact Bool.xor_left_inj.mp hbit
  exact BitVec.eq_of_getLsbD_eq fun j _ => bits w j (by omega)

end

/-! ### The mixers -/

theorem mix32_eq (h : Half) : mix32 h = xorShift 16 (xorShift 13 (xorShift 16 h * M32A) * M32B) := rfl

theorem mix64_eq (v : Word) : mix64 v = xorShift 47 v := rfl

/-- R97's lines as numbers, for any two multipliers: the kernel, given the two constants here, would multiply an unknown word by
them. -/
theorem toNat_mix32_lines (m m' h : Half) :
    (xorShift 16 (xorShift 13 (xorShift 16 h * m) * m')).toNat =
      let h1 := h.toNat ^^^ (h.toNat / 2 ^ 16)
      let h2 := h1 * m.toNat % 2 ^ 32
      let h3 := h2 ^^^ (h2 / 2 ^ 13)
      let h4 := h3 * m'.toNat % 2 ^ 32
      h4 ^^^ (h4 / 2 ^ 16) := by
  simp only [toNat_xorShift, BitVec.toNat_mul]

theorem toNat_mix32 (h : Half) : (mix32 h).toNat = natMix32 h.toNat := toNat_mix32_lines M32A M32B h

/-- Multiplying by a constant with an inverse modulo `2^w` is invertible. -/
theorem mul_const_injective {w : Nat} {m m' : BitVec w} (h : m * m' = 1) : Function.Injective fun v : BitVec w => v * m :=
  (IsUnit.of_mul_eq_one m' h).mul_left_injective

/-- Each of the five steps of R97 is injective; the inverses of the two multipliers are written out. -/
theorem mix32_injective : Function.Injective mix32 := by
  have hA : M32A * 0xa5cb9243 = 1 := by decide
  have hB : M32B * 0x7ed1b41d = 1 := by decide
  exact (xorShift_injective 16 (by decide)).comp <| (mul_const_injective hB).comp <|
    (xorShift_injective 13 (by decide)).comp <| (mul_const_injective hA).comp <| xorShift_injective 16 (by decide)

/-- Settles O11: the value by `toNat_mix32`, the bijection by `mix32_injective` on a finite type. -/
theorem mix32ComputesAndIsABijection : Obligations.Mix32ComputesAndIsABijection := by
  refine ⟨fun rd rs1 s => ⟨_, rfl, wroteOnly_result64 .., ?_⟩, by decide, Finite.injective_iff_bijective.mp mix32_injective,
    by decide⟩
  rw [State.result32_get, toNat_zext64, toNat_mix32, State.operand32, toNat_trunc32]

/-- Settles O12: `mix64` is the xor-shift by 47. -/
theorem mix64FoldsTheTopBits : Obligations.Mix64FoldsTheTopBits := by
  refine ⟨fun rd rs1 s => ⟨_, rfl, wroteOnly_result64 .., fun j _ => ?_, fun hlt => ?_⟩, by decide⟩
  · rw [State.result64_get, mix64_eq, getLsbD_xorShift]
  · rw [State.result64_get, mix64_eq, xorShift_of_lt 47 hlt]

/-! ### The combiners -/

/-- R99's lines as numbers, for any three constants, as in `toNat_mix32_lines`. -/
theorem toNat_mur_lines (c1 c2 c3 a h : Half) :
    (rotr32 (h ^^^ rotr32 (a * c1) 17 * c2) 19 * 5 + c3).toNat =
      let a1 := a.toNat * c1.toNat % 2 ^ 32
      let a2 := natRotr 32 a1 17
      let a3 := a2 * c2.toNat % 2 ^ 32
      let h1 := natRotr 32 (h.toNat ^^^ a3) 19
      (h1 * 5 + c3.toNat) % 2 ^ 32 := by
  have h5 : (5 : Half).toNat = 5 := rfl
  simp only [BitVec.toNat_add, BitVec.toNat_mul, BitVec.toNat_xor, toNat_rotr32, h5, Nat.mod_add_mod]

theorem toNat_mur (a h : Half) : (mur a h).toNat = natMur a.toNat h.toNat := toNat_mur_lines C1 C2 C3 a h

/-- Settles O13: the value by `toNat_mur`; the arguments 1 and 0 show that the order matters. -/
theorem murComputesModulo : Obligations.MurComputesModulo := by
  refine ⟨fun rd rs1 rs2 s => ⟨_, rfl, wroteOnly_result64 .., ?_⟩, by decide, ⟨1, 0, by decide⟩, by decide⟩
  rw [State.result32_get, toNat_zext64, toNat_mur, State.operand32, State.operand32, toNat_trunc32, toNat_trunc32]

theorem comb_eq (u v mul : Word) :
    comb u v mul = xorShift 47 ((v ^^^ xorShift 47 ((u ^^^ v) * mul)) * mul) * mul := rfl

/-- R100's lines as numbers. -/
theorem toNat_comb (u v mul : Word) : (comb u v mul).toNat = natComb u.toNat v.toNat mul.toNat := by
  simp only [comb_eq, natComb, toNat_xorShift, BitVec.toNat_mul, BitVec.toNat_xor]

/-- The closing multiplication by 0 (R100). -/
theorem comb_mul_zero (u v : Word) : comb u v 0 = 0 := by
  rw [comb_eq]
  exact BitVec.mul_zero

/-- Two equal words cancel in the first line (R100), and 0 stays 0. -/
theorem comb_zero_zero (mul : Word) : comb 0 0 mul = 0 := by
  simp [comb_eq, xorShift]

/-- Settles O14, by `toNat_comb`. -/
theorem combComputesModulo : Obligations.CombComputesModulo := by
  refine ⟨fun rd rs1 rs2 rs3 s => ⟨_, rfl, wroteOnly_result64 .., ?_⟩, comb_mul_zero, comb_zero_zero, by decide⟩
  rw [State.result64_get, toNat_comb]

/-- Settles O15, by `toNat_comb` with the multiplier `KMUL`; the arguments 1 and 2 show that it is not symmetric. -/
theorem hash128To64IsTheCombiner : Obligations.Hash128To64IsTheCombiner := by
  refine ⟨fun rd rs1 rs2 s => ⟨_, rfl, wroteOnly_result64 .., ?_⟩, comb_zero_zero KMUL, ⟨1, 2, by decide⟩, by decide⟩
  rw [State.result64_get, h128to64, toNat_comb]
  rfl

end Sys2Proof.Machine
end

section
/-! The weak pair and the message reads (spec/41_weakpair_and_fetch.md R110 to R118): when a message read raises, what its bytes
are as numbers, the end of a weak-pair command, and R111's lines over the natural numbers. -/

namespace Sys2Proof.Machine

/-! ### The check of a message read -/

/-- The read check fails exactly where the bytes are not inside a message that does not wrap (R208). -/
theorem State.outOfBounds_iff_not_readsInside (s : State) (o : Word) (k : Nat) :
    s.outOfBounds o k = true ↔ ¬ ReadsInside s o k := by
  rw [State.outOfBounds_iff, State.windowWraps_iff, ReadsInside]
  omega

/-- A message read outside the message does nothing but raise `BOUNDS` (R113, R115 to R117, R208). -/
theorem exec_messageRead_outside {i : Instr} {rs1 : Reg} {k : Nat} (hi : i.messageRead = some (rs1, k)) {s : State}
    (h : ¬ ReadsInside s (s.operand 0 rs1) k) : exec i s = .next (s.raise .bounds) := by
  have hout := (State.outOfBounds_iff_not_readsInside ..).mpr h
  cases i <;> cases hi <;> exact if_pos hout

/-- What the raise of a message read outside the message leaves (R203, R208). -/
theorem messageRead_raises_bounds {i : Instr} {rs1 : Reg} {k : Nat} (hi : i.messageRead = some (rs1, k)) {s : State}
    (h : ¬ ReadsInside s (s.operand 0 rs1) k) :
    ∃ t, exec i s = .next t ∧ Raised .bounds s t ∧ t.dv = s.dv ∧ t.dw = s.dw :=
  ⟨_, exec_messageRead_outside hi h, raised_raise .., State.raise_dv .., State.raise_dw ..⟩

section
variable {s : State} {rs1 : Reg} {k : Nat}

/-- The check of a message read passes inside the message, and the read goes on. -/
theorem ReadsInside.ite_outOfBounds {α : Type} {o : Word} (h : ReadsInside s o k) (raised read : α) :
    (if s.outOfBounds o k then raised else read) = read :=
  if_neg fun hout => (State.outOfBounds_iff_not_readsInside ..).mp hout h

theorem exec_weakm_inside (h : ReadsInside s (s.operand 0 rs1) 32) :
    exec (.weakm rs1) s =
      .next (s.resultPair (s.msg.weakm (s.operand 0 rs1) (s.operand 1 4) (s.operand 2 5))) :=
  h.ite_outOfBounds ..

theorem exec_ld8_inside (rd : Reg) (h : ReadsInside s (s.operand 0 rs1) 1) :
    exec (.ld8 rd rs1) s = .next (s.result64 rd ((s.msg.fetch8 (s.operand 0 rs1)).setWidth 64)) :=
  h.ite_outOfBounds ..

theorem exec_ld32_inside (rd : Reg) (h : ReadsInside s (s.operand 0 rs1) 4) :
    exec (.ld32 rd rs1) s = .next (s.result32 rd (s.msg.fetch32 (s.operand 0 rs1))) :=
  h.ite_outOfBounds ..

theorem exec_ld64_inside (rd : Reg) (h : ReadsInside s (s.operand 0 rs1) 8) :
    exec (.ld64 rd rs1) s = .next (s.result64 rd (s.msg.fetch64 (s.operand 0 rs1))) :=
  h.ite_outOfBounds ..

end

/-! ### Bytes inside the message -/

section
variable {s : State} {o : Word} {k : Nat} (h : ReadsInside s o k)
include h

/-- No address of a byte inside the message wraps. -/
theorem ReadsInside.toNat_base_add (hk : 0 < k) : (s.base + o).toNat = s.base.toNat + o.toNat := by
  obtain ⟨hwin, hlen⟩ := h
  exact BitVec.toNat_add_of_lt (by omega)

/-- The offset `d` further on does not wrap while it points at a byte of the read. -/
theorem ReadsInside.toNat_add {d : Word} (hd : d.toNat < k) : (o + d).toNat = o.toNat + d.toNat := by
  obtain ⟨-, hlen⟩ := h
  have := s.len.isLt
  exact BitVec.toNat_add_of_lt (by omega)

theorem ReadsInside.mono {j : Nat} (hj : j ≤ k) : ReadsInside s o j := by
  obtain ⟨hwin, hlen⟩ := h
  exact ⟨hwin, by omega⟩

/-- A part of a read inside the message is inside it. -/
theorem ReadsInside.part {d : Word} {j : Nat} (hj : 0 < j) (hd : d.toNat + j ≤ k) : ReadsInside s (o + d) j := by
  have hadd := h.toNat_add (d := d) (by omega)
  obtain ⟨hwin, hlen⟩ := h
  exact ⟨hwin, by omega⟩

end

section
variable {s : State} {o : Word}

theorem ReadsInside.toNat_fetch8 (h : ReadsInside s o 1) :
    (s.msg.fetch8 o).toNat = natBytes s.mem (s.base.toNat + o.toNat) 1 := by
  rw [Message.fetch8, State.msg, memRead8_toNat, h.toNat_base_add (by decide)]

theorem ReadsInside.toNat_fetch32 (h : ReadsInside s o 4) :
    (s.msg.fetch32 o).toNat = natBytes s.mem (s.base.toNat + o.toNat) 4 := by
  have haddr := h.toNat_base_add (by decide)
  have hend : (s.base + o).toNat + 4 ≤ 2 ^ 64 := by obtain ⟨hwin, hlen⟩ := h; omega
  exact haddr ▸ memRead32_toNat s.mem hend

theorem ReadsInside.toNat_fetch64 (h : ReadsInside s o 8) :
    (s.msg.fetch64 o).toNat = natBytes s.mem (s.base.toNat + o.toNat) 8 := by
  have haddr := h.toNat_base_add (by decide)
  have hend : (s.base + o).toNat + 8 ≤ 2 ^ 64 := by obtain ⟨hwin, hlen⟩ := h; omega
  exact haddr ▸ memRead64_toNat s.mem hend

/-- The word at distance `d` into a longer read (R112). -/
theorem ReadsInside.toNat_fetch64_add {k : Nat} (h : ReadsInside s o k) {d : Word} (hd : d.toNat + 8 ≤ k) :
    (s.msg.fetch64 (o + d)).toNat = natBytes s.mem (s.base.toNat + o.toNat + d.toNat) 8 := by
  rw [(h.part (by decide) hd).toNat_fetch64, h.toNat_add (by omega), Nat.add_assoc]

end

/-! ### The loads -/

/-- Settles O18: each load ends in `result64` of its fetch inside the message (`toNat_fetch8`, `toNat_fetch32`,
`toNat_fetch64`), and in the raise outside it. -/
theorem loadsAssembleLittleEndian : Obligations.LoadsAssembleLittleEndian := by
  refine fun rd rs1 s => ⟨fun h => ⟨_, exec_ld8_inside rd h, wroteOnly_result64 .., ?_⟩,
    fun h => ⟨_, exec_ld32_inside rd h, wroteOnly_result64 .., ?_⟩,
    fun h => ⟨_, exec_ld64_inside rd h, wroteOnly_result64 .., ?_⟩, fun k i hi hout => ?_⟩
  · rw [State.result64_get, BitVec.toNat_setWidth_of_le (by decide), h.toNat_fetch8]
  · rw [State.result32_get, toNat_zext64, h.toNat_fetch32]
  · rw [State.result64_get, h.toNat_fetch64]
  · have hread : i.messageRead = some (rs1, k) := by
      simp only [List.mem_cons, List.not_mem_nil, or_false, Prod.mk.injEq] at hi
      rcases hi with ⟨rfl, rfl⟩ | ⟨rfl, rfl⟩ | ⟨rfl, rfl⟩ <;> rfl
    exact messageRead_raises_bounds hread hout

/-! ### The weak pair -/

theorem toNat_rotr64 (v : Word) (n : Nat) : (rotr64 v n).toNat = natRotr 64 v.toNat n := by
  rw [rotr64_eq_rotateRight, toNat_rotateRight_eq_natRotr (by decide)]

/-- A sum of three words is reduced once. -/
theorem toNat_add_add (u v w : Word) : (u + v + w).toNat = (u.toNat + v.toNat + w.toNat) % 2 ^ 64 := by
  rw [BitVec.toNat_add, BitVec.toNat_add, Nat.mod_add_mod]

/-- R111's lines as numbers, one by one. -/
theorem toNat_weak (w x y z a b : Word) :
    ((weak w x y z a b).first.toNat, (weak w x y z a b).second.toNat) =
      natWeak w.toNat x.toNat y.toNat z.toNat a.toNat b.toNat := by
  have line1 : (a + w).toNat = (a.toNat + w.toNat) % 2 ^ 64 := BitVec.toNat_add ..
  have line2 : (rotr64 (b + (a + w) + z) 21).toNat = natRotr 64 ((b.toNat + (a + w).toNat + z.toNat) % 2 ^ 64) 21 := by
    rw [toNat_rotr64, toNat_add_add]
  have line4 : (a + w + x + y).toNat = ((a + w).toNat + x.toNat + y.toNat) % 2 ^ 64 := toNat_add_add ..
  have line5 (b1 a2 : Word) : (b1 + rotr64 a2 44).toNat = (b1.toNat + natRotr 64 a2.toNat 44) % 2 ^ 64 := by
    rw [BitVec.toNat_add, toNat_rotr64]
  simp only [weak, natWeak, BitVec.toNat_add _ z, BitVec.toNat_add _ (a + w), line5, line4, line2, line1]

@[simp] theorem State.resultPair_get_first (s : State) (p : WeakPair) : (s.resultPair p).x[(6 : Reg)] = p.first := by
  simp [State.resultPair]

@[simp] theorem State.resultPair_get_second (s : State) (p : WeakPair) : (s.resultPair p).x[(7 : Reg)] = p.second := by
  simp [State.resultPair]

/-- The end of a weak-pair command writes `x[6]`, `x[7]` and `COND`, and nothing else a claim speaks of (R23, R111, R113). -/
theorem wrotePair_resultPair (s : State) (p : WeakPair) : WrotePair s (s.resultPair p) := by
  have hoperands : SameOperandsBut [6, 7] s (s.resultPair p) := fun i hi => by
    obtain ⟨h6, h7⟩ : i ≠ 6 ∧ i ≠ 7 := by simpa using hi
    obtain ⟨hx, hw⟩ := sameOperand_setX_of_ne s p.first h6.symm
    obtain ⟨hx', hw'⟩ := sameOperand_setX_of_ne (s.setX 6 p.first) p.second h7.symm
    exact ⟨hx'.trans hx, hw'.trans hw⟩
  exact ⟨rfl, by simp [State.resultPair], by simp [State.resultPair],
    ⟨hoperands, ⟨rfl, rfl, rfl⟩, ⟨rfl, rfl, rfl⟩, fun _ => rfl⟩,
    ⟨rfl, rfl, rfl, rfl, rfl⟩, ⟨rfl, rfl, rfl, rfl⟩, rfl⟩

/-- Settles O16, by `toNat_weak`: `WEAK` reads its six sources in the state before either result is written. -/
theorem weakComputesThePair : Obligations.WeakComputesThePair := by
  refine ⟨fun s => ⟨_, rfl, wrotePair_resultPair .., ?_⟩, by decide⟩
  rw [State.resultPair_get_first, State.resultPair_get_second, toNat_weak]

/-- Settles O17: inside the message the four words are those of `toNat_fetch64_add`; outside it the read raises. -/
theorem weakmReadsFourWordsOrRaises : Obligations.WeakmReadsFourWordsOrRaises := by
  refine fun rs1 s => ⟨fun h => ⟨_, exec_weakm_inside h, wrotePair_resultPair .., ?_⟩,
    fun h => messageRead_raises_bounds rfl h⟩
  rw [State.resultPair_get_first, State.resultPair_get_second, Message.weakm, toNat_weak, (h.mono (by decide)).toNat_fetch64,
    h.toNat_fetch64_add (d := 8) (by decide), h.toNat_fetch64_add (d := 16) (by decide),
    h.toNat_fetch64_add (d := 24) (by decide)]
  rfl

end Sys2Proof.Machine
end

section
/-! A hash run to its end (spec/42_hash32.md R120 to R128, spec/45_system.md R187, R188): the accepted command is its start step,
a start step that completes has delivered, and a loop and its finish step deliver what the engine computes group by group. -/

namespace Sys2Proof.Machine

/-! ### From the accepted command to the delivered digest, for every engine -/

section
variable {s : State}

/-- A hash of a supported width, not cancelled and with a window that does not wrap, is its start step (R187). -/
theorem exec_hash_eq_start {w : BitVec 8} (hw : w = 32 ∨ w = 64 ∨ w = 128) (hc : s.cancel = false)
    (hwin : s.base.toNat + s.len.toNat ≤ 2 ^ 64) : exec (.hash w) s = .next (startHash w s.withoutDigest) := by
  rw [exec, execHash, (supportedWidth_iff w).mpr hw, acceptHash_eq_start _ hc hwin]

/-- Giving up the old digest is inside every command's frame (R31, R187). -/
theorem commandFrame_withoutDigest (s : State) : CommandFrame [] s s.withoutDigest :=
  ⟨fun _ _ => ⟨rfl, rfl⟩, ⟨rfl, rfl, rfl⟩, ⟨rfl, rfl, rfl⟩, fun _ => rfl⟩

/-- Entering a loop and consuming its groups keep to the frame (R28). -/
theorem commandFrame_loop {u : State} (h : CommandFrame [] s u) (md : Mode) (pos cnt : Word) (wk : Work)
    (f : Word → Work → Work) (g : Word) (k : Nat) :
    CommandFrame [] s ((u.enterLoop md pos cnt wk).afterGroups f g k) := h

/-- A hash that has kept to the frame, and shows no condition, delivers by writing its digest (R35). -/
theorem delivered_deliver {u : State} (hcond : u.cond = .ok) (hframe : CommandFrame [] s u) (w : BitVec 8) (d0 d1 : Word) :
    Delivered w d0 d1 s (u.deliver w d0 d1) :=
  ⟨rfl, hcond, rfl, rfl, rfl, rfl, hframe⟩

/-- A start step that completes the hash has delivered its digest (R35). -/
theorem delivered_complete (s : State) (w : BitVec 8) (d0 d1 : Word) :
    Delivered w d0 d1 s (s.withoutDigest.complete w d0 d1) :=
  ⟨rfl, rfl, rfl, rfl, rfl, rfl, commandFrame_withoutDigest s⟩

/-- A loop over groups consumed by `f`, entered with an iteration due, runs to the digest of its finish step (R28, R35, R188).
What the finish step delivers need only be known where the loop ends: after all groups, with no write to the window. -/
theorem enterLoop_runs_to_delivered {f : Word → Work → Work} {g pos cnt d0 d1 : Word} {md : Mode} {wk : Work} {w : BitVec 8}
    (hc : s.cancel = false) (hh : s.host = []) (hcnt : 1 ≤ cnt.toNat)
    (hloop : ∀ u : State, u.mode = md → u.msg = s.msg → consumeGroup u = u.advance g (f u.pos u.work))
    (hfin : ∀ u : State, u.mode = md → u.msg = s.msg → u.dutyBroken = false → u.work = groupsOf f g cnt.toNat pos wk →
      u.pos = pos + g * cnt → finishStep u = u.deliver w d0 d1) :
    ∃ t, runs (cnt.toNat + 1) (s.withoutDigest.enterLoop md pos cnt wk) = .next t ∧ Delivered w d0 d1 s t := by
  have hend : finishStep ((s.withoutDigest.enterLoop md pos cnt wk).afterGroups f g cnt.toNat) =
      ((s.withoutDigest.enterLoop md pos cnt wk).afterGroups f g cnt.toNat).deliver w d0 d1 :=
    hfin _ rfl rfl rfl rfl (by simp [State.afterGroups])
  have hrun := loop_and_finish_runs f g md (s.withoutDigest.enterLoop md pos cnt wk) hloop rfl rfl hc hh hcnt
  exact ⟨_, hrun.trans (congrArg _ hend), delivered_deliver rfl (commandFrame_loop (commandFrame_withoutDigest s) ..) w d0 d1⟩

end

/-- A relation between working registers that each round keeps is kept by a whole loop. -/
theorem groupsOf_related {R : Work → Work → Prop} {f : Word → Work → Work}
    (hf : ∀ p w w', R w w' → R (f p w) (f p w')) (g : Word) (k : Nat) :
    ∀ p w w', R w w' → R (groupsOf f g k p w) (groupsOf f g k p w') := by
  induction k with
  | zero => exact fun _ _ _ h => h
  | succ k ih => exact fun p w w' h => ih _ _ _ (hf p w w' h)

/-! ### The 32-bit engine reads no working register it has not written (R26, R189) -/

/-- The working registers of the 32-bit engine agree (R26). -/
def SameWork32 (w w' : Work) : Prop := w.f = w'.f ∧ w.g = w'.g ∧ w.h = w'.h

section
variable {w w' : Work}

theorem sameWork32_seed32 (m : Message) (n : Word) (w w' : Work) : SameWork32 (seed32 m n w) (seed32 m n w') :=
  ⟨rfl, rfl, rfl⟩

theorem SameWork32.round32 (h : SameWork32 w w') (m : Message) (p : Word) :
    SameWork32 (round32 m p w) (round32 m p w') := by
  obtain ⟨hf, hg, hh⟩ := h
  simp only [SameWork32, Machine.round32, permute3, hf, hg, hh, and_self]

theorem SameWork32.groups32 (h : SameWork32 w w') (m : Message) (k : Nat) (p : Word) :
    SameWork32 (groups32 m k p w) (groups32 m k p w') :=
  groupsOf_related (fun q _ _ h => h.round32 m q) 20 k p w w' h

theorem SameWork32.finish32 (h : SameWork32 w w') : finish32 w = finish32 w' := by
  obtain ⟨hf, hg, hh⟩ := h
  simp only [Machine.finish32, hf, hg, hh]

end

/-! ### The engines by their buckets (R120, R140) -/

section
variable (p : Params) (m : Message) {n : Word}

theorem hash32_of_le_4 (h : n.toNat ≤ 4) : hash32 p m n = h32_0to4 p.byteExt m n := if_pos h

theorem hash32_of_5_to_12 (h5 : 5 ≤ n.toNat) (h12 : n.toNat ≤ 12) : hash32 p m n = h32_5to12 m n := by
  rw [hash32, if_neg (by omega), if_pos h12]

theorem hash32_of_13_to_24 (h13 : 13 ≤ n.toNat) (h24 : n.toNat ≤ 24) : hash32 p m n = h32_13to24 m n := by
  rw [hash32, if_neg (by omega), if_neg (by omega), if_pos h24]

/-- The long path, whatever the working registers hold before it. -/
theorem hash32_of_25_le (h25 : 25 ≤ n.toNat) (w : Work) :
    hash32 p m n = finish32 (groups32 m (iters32 p.iterRule n).toNat 0 (seed32 m n w)) := by
  rw [hash32, if_neg (by omega), if_neg (by omega), if_neg (by omega)]
  exact ((sameWork32_seed32 m n Work.zero w).groups32 m _ 0).finish32

theorem hash64_of_le_16 (h : n.toNat ≤ 16) : hash64 p m n = h64_0to16 m 0 n := if_pos h

theorem hash64_of_17_to_32 (h17 : 17 ≤ n.toNat) (h32 : n.toNat ≤ 32) : hash64 p m n = h64_17to32 m n := by
  rw [hash64, if_neg (by omega), if_pos h32]

theorem hash64_of_33_to_64 (h33 : 33 ≤ n.toNat) (h64 : n.toNat ≤ 64) : hash64 p m n = h64_33to64 m n := by
  rw [hash64, if_neg (by omega), if_neg (by omega), if_pos h64]

theorem hash64_of_65_le (h65 : 65 ≤ n.toNat) :
    hash64 p m n = finish64 (groups64 m (iters64 p.iterRule n).toNat 0 (seed64 m n Work.zero)) := by
  rw [hash64, if_neg (by omega), if_neg (by omega), if_neg (by omega)]

end

/-! ### `HASH 32` delivers `hash32` of the message -/

section
variable {s : State}

theorem start32_of_le_24 (h : s.len.toNat ≤ 24) :
    start32 s = s.complete 32 (zext64 (hash32 s.params s.msg s.len)) 0 := by
  unfold start32 hash32
  dsimp only
  split_ifs <;> rfl

theorem start32_of_25_le (h : 25 ≤ s.len.toNat) :
    start32 s = s.enterLoop .m32 0 (iters32 s.params.iterRule s.len) (seed32 s.msg s.len s.work) := by
  rw [start32, if_neg (by omega), if_neg (by omega), if_neg (by omega)]

theorem consumeGroup_m32 (hm : s.mode = .m32) : consumeGroup s = s.advance 20 (round32 s.msg s.pos s.work) := by
  rw [consumeGroup_eq, hm]

/-- The finish step of mode `M32` delivers its digest, where the host left the window alone (R126, R35). -/
theorem finishStep_m32 (hm : s.mode = .m32) (hb : s.dutyBroken = false) :
    finishStep s = s.deliver 32 (zext64 (finish32 s.work)) 0 := by
  have htrunc (v : Half) : trunc32 (zext64 v) = v := by simp [trunc32, zext64]
  rw [finishStep, hm]
  simp only [fin32, State.promised_kept _ _ _ hb, htrunc]

/-- Settles O27: a short message completes in the start step; a long one runs its loop from the working registers the machine
holds, which `hash32` does not depend on (`hash32_of_25_le`). -/
theorem hash32RunDeliversTheDigest : Obligations.Hash32RunDeliversTheDigest := by
  intro s hc hwin hh
  have hexec : exec (.hash 32) s = .next (start32 s.withoutDigest) := exec_hash_eq_start (.inl rfl) hc hwin
  by_cases hlen : s.len.toNat ≤ 24
  · have hplan : hashPlan 32 s.params.iterRule s.len.toNat = none := by simp [hashPlan, hlen]
    rw [start32_of_le_24 (s := s.withoutDigest) hlen] at hexec
    rw [hplan]
    exact ⟨_, ⟨_, hexec, runs_zero _⟩, delivered_complete s 32 _ 0⟩
  · have h25 : 25 ≤ s.len.toNat := by omega
    have hcnt := toNat_iters32 s.params.iterRule (n := s.len) (by omega)
    have hplan : planSteps (hashPlan 32 s.params.iterRule s.len.toNat) = (iters32 s.params.iterRule s.len).toNat + 1 := by
      simp [hashPlan, hlen, planSteps, hcnt]
    have hdue : 1 ≤ (iters32 s.params.iterRule s.len).toNat := hcnt ▸ iterCount_pos _ (by omega) (by omega)
    rw [start32_of_25_le (s := s.withoutDigest) h25] at hexec
    obtain ⟨t, hrun, hdel⟩ := enterLoop_runs_to_delivered (s := s) (md := .m32) (f := round32 s.msg) (g := 20) (pos := 0)
      (wk := seed32 s.msg s.len s.work) (w := 32) (d0 := zext64 (hash32 s.params s.msg s.len)) (d1 := 0) hc hh hdue
      (fun u hm hmsg => by rw [consumeGroup_m32 hm, hmsg])
      (fun u hm _ hb hwork _ => by rw [finishStep_m32 hm hb, hwork, hash32_of_25_le _ _ h25 s.work, groups32])
    exact ⟨t, ⟨_, hexec, hplan ▸ hrun⟩, hdel⟩

end

/-! ### The listed digests

Each engine is brought to the bucket of the length first, so that only what the parameters reach is split over them:
`BYTE_EXT32` in the shortest bucket, `ITER_RULE` in the count of the long path. -/

/-- Up to 4 bytes: `seq(n)` has no byte from 0x80 up, so `BYTE_EXT32` does not matter (R121). -/
theorem hash32_seq_le_4 (p : Params) :
    hash32 p (seqMessage 0) 0 = 0xdc56d17a ∧ hash32 p (seqMessage 1) 1 = 0xc0a92754 ∧
      hash32 p (seqMessage 4) 4 = 0x616e1132 := by
  rw [hash32_of_le_4 p _ (by decide), hash32_of_le_4 p _ (by decide), hash32_of_le_4 p _ (by decide)]
  cases p.byteExt <;> decide +kernel

theorem hash32_byte80 (r : IterRule) :
    hash32 ⟨r, .sext⟩ ⟨[(0, 0x80)], 0⟩ 1 = 0x2fc8696b ∧ hash32 ⟨r, .zext⟩ ⟨[(0, 0x80)], 0⟩ 1 = 0xa4e08dff := by
  rw [hash32_of_le_4 _ _ (by decide), hash32_of_le_4 _ _ (by decide)]
  dsimp only
  decide +kernel

theorem hash32_seq_5_to_24 (p : Params) :
    hash32 p (seqMessage 5) 5 = 0xfe6e37d4 ∧ hash32 p (seqMessage 12) 12 = 0xde42ef1c ∧
      hash32 p (seqMessage 13) 13 = 0x8add7404 ∧ hash32 p (seqMessage 24) 24 = 0x60cf6aa4 := by
  rw [hash32_of_5_to_12 p _ (by decide) (by decide), hash32_of_5_to_12 p _ (by decide) (by decide),
    hash32_of_13_to_24 p _ (by decide) (by decide), hash32_of_13_to_24 p _ (by decide) (by decide)]
  decide +kernel

/-- At 25 bytes both values of `ITER_RULE` run one group (R123). -/
theorem hash32_seq_25 (p : Params) : hash32 p (seqMessage 25) 25 = 0x2e6ddf78 := by
  have hone : (iters32 p.iterRule 25).toNat = 1 := by cases p.iterRule <;> rfl
  rw [hash32_of_25_le p _ (by decide) Work.zero, hone]
  decide +kernel

/-- At 40 bytes `ref` runs one group and `literal` two (R123). -/
theorem hash32_seq_40 (e : ByteExt) :
    hash32 ⟨.ref, e⟩ (seqMessage 40) 40 = 0x5042df8c ∧ hash32 ⟨.literal, e⟩ (seqMessage 40) 40 = 0xb0638efc := by
  rw [hash32_of_25_le _ _ (by decide) Work.zero, hash32_of_25_le _ _ (by decide) Work.zero]
  dsimp only
  decide +kernel

theorem hash64_seq_le_16 (p : Params) :
    hash64 p (seqMessage 0) 0 = 0x9ae16a3b2f90404f ∧ hash64 p (seqMessage 3) 3 = 0x94a13d22e9eba49a ∧
      hash64 p (seqMessage 7) 7 = 0xa2e0bff20db0a6a1 ∧ hash64 p (seqMessage 16) 16 = 0x0efd25a0a34156d4 := by
  rw [hash64_of_le_16 p _ (by decide), hash64_of_le_16 p _ (by decide), hash64_of_le_16 p _ (by decide),
    hash64_of_le_16 p _ (by decide)]
  decide +kernel

theorem hash64_seq_17_to_64 (p : Params) :
    hash64 p (seqMessage 17) 17 = 0xbbb6a6f8f20d1f1c ∧ hash64 p (seqMessage 33) 33 = 0x46e1378cbc22daba := by
  rw [hash64_of_17_to_32 p _ (by decide) (by decide), hash64_of_33_to_64 p _ (by decide) (by decide)]
  decide +kernel

/-- At 65 bytes both values of `ITER_RULE` run one group (R145). -/
theorem hash64_seq_65 (p : Params) : hash64 p (seqMessage 65) 65 = 0xac589c990483dd2e := by
  have hone : (iters64 p.iterRule 65).toNat = 1 := by cases p.iterRule <;> rfl
  rw [hash64_of_65_le p _ (by decide), hone]
  decide +kernel

/-- At 128 bytes `ref` runs one group and `literal` two (R145). -/
theorem hash64_seq_128 (e : ByteExt) :
    hash64 ⟨.ref, e⟩ (seqMessage 128) 128 = 0x10b153630af1f395 ∧
      hash64 ⟨.literal, e⟩ (seqMessage 128) 128 = 0x524852f8e8f9c4f0 := by
  rw [hash64_of_65_le _ _ (by decide), hash64_of_65_le _ _ (by decide)]
  dsimp only
  decide +kernel

/-- Settles O30: the lemmas above, and the 128-bit engine, which no parameter reaches, by evaluation. -/
theorem listedDigestsAreReproduced : Obligations.ListedDigestsAreReproduced := by
  refine ⟨fun p => ?_, by decide +kernel, hash32_byte80, fun p => ?_, hash32_seq_40, fun p => ?_, hash64_seq_128,
    by decide +kernel, by decide +kernel, by decide +kernel, by decide +kernel⟩
  · obtain ⟨h0, h1, -⟩ := hash32_seq_le_4 p
    obtain ⟨h64, -⟩ := hash64_seq_le_16 p
    exact ⟨h0, h64, h1⟩
  · obtain ⟨-, -, h4⟩ := hash32_seq_le_4 p
    obtain ⟨h5, h12, h13, h24⟩ := hash32_seq_5_to_24 p
    exact ⟨h4, h5, h12, h13, h24, hash32_seq_25 p⟩
  · obtain ⟨-, h3, h7, h16⟩ := hash64_seq_le_16 p
    obtain ⟨h17, h33⟩ := hash64_seq_17_to_64 p
    exact ⟨h3, h7, h16, h17, h33, hash64_seq_65 p⟩

end Sys2Proof.Machine
end

section
/-! `HASH 64` run to its end (spec/43_hash64.md R140 to R149): the long path reads no working register it has not written, and the
start, loop and finish steps compute `hash64` of the message. -/

namespace Sys2Proof.Machine

/-! ### The 64-bit engine reads no working register it has not written (R26, R189) -/

/-- The working registers of the 64-bit engine agree (R26). -/
def SameWork64 (w w' : Work) : Prop :=
  (w.x = w'.x ∧ w.y = w'.y ∧ w.z = w'.z) ∧ (w.v0 = w'.v0 ∧ w.v1 = w'.v1) ∧ w.w0 = w'.w0 ∧ w.w1 = w'.w1

section
variable {w w' : Work}

theorem sameWork64_seed64 (m : Message) (n : Word) (w w' : Work) : SameWork64 (seed64 m n w) (seed64 m n w') :=
  ⟨⟨rfl, rfl, rfl⟩, ⟨rfl, rfl⟩, rfl, rfl⟩

theorem SameWork64.round64 (h : SameWork64 w w') (m : Message) (o : Word) :
    SameWork64 (round64 m o w) (round64 m o w') := by
  obtain ⟨⟨hx, hy, hz⟩, ⟨hv0, hv1⟩, hw0, hw1⟩ := h
  simp only [SameWork64, Machine.round64, hx, hy, hz, hv0, hv1, hw0, hw1, and_self]

theorem SameWork64.groups64 (h : SameWork64 w w') (m : Message) (k : Nat) (p : Word) :
    SameWork64 (groups64 m k p w) (groups64 m k p w') :=
  groupsOf_related (fun q _ _ h => h.round64 m q) 64 k p w w' h

theorem SameWork64.finish64 (h : SameWork64 w w') : finish64 w = finish64 w' := by
  obtain ⟨⟨hx, hy, hz⟩, ⟨hv0, hv1⟩, hw0, hw1⟩ := h
  simp only [Machine.finish64, hx, hy, hz, hv0, hv1, hw0, hw1]

end

/-- The long path, whatever the working registers hold before it. -/
theorem hash64_eq_of_any_work (p : Params) (m : Message) {n : Word} (h65 : 65 ≤ n.toNat) (w : Work) :
    hash64 p m n = finish64 (groups64 m (iters64 p.iterRule n).toNat 0 (seed64 m n w)) :=
  (hash64_of_65_le p m h65).trans ((sameWork64_seed64 m n Work.zero w).groups64 m _ 0).finish64

/-- The empty message (R141): the last branch of `h64_0to16`, which fetches no byte. -/
theorem hash64_empty (p : Params) (m : Message) : hash64 p m 0 = K2 :=
  hash64_of_le_16 p m (by decide)

/-! ### `HASH 64` delivers `hash64` of the message -/

section
variable {s : State}

theorem start64_of_le_64 (h : s.len.toNat ≤ 64) : start64 s = s.complete 64 (hash64 s.params s.msg s.len) 0 := by
  unfold start64 hash64
  dsimp only
  split_ifs <;> rfl

theorem start64_of_65_le (h : 65 ≤ s.len.toNat) :
    start64 s = s.enterLoop .m64 0 (iters64 s.params.iterRule s.len) (seed64 s.msg s.len s.work) := by
  rw [start64, if_neg (by omega), if_neg (by omega), if_neg (by omega)]

theorem consumeGroup_m64 (hm : s.mode = .m64) : consumeGroup s = s.advance 64 (round64 s.msg s.pos s.work) := by
  rw [consumeGroup_eq, hm]

/-- The finish step of mode `M64` delivers its digest, where the host left the window alone (R148, R35). -/
theorem finishStep_m64 (hm : s.mode = .m64) (hb : s.dutyBroken = false) :
    finishStep s = s.deliver 64 (finish64 s.work) 0 := by
  rw [finishStep, hm]
  simp only [fin64, State.promised_kept _ _ _ hb]

/-- The loop that `HASH 64` enters for 65 bytes or more runs to `hash64` of the message, from the working registers the machine
holds, which `hash64` does not depend on (`hash64_eq_of_any_work`). -/
theorem loop64_runs_to_delivered (hc : s.cancel = false) (hh : s.host = []) (h65 : 65 ≤ s.len.toNat) :
    ∃ t, runs ((iters64 s.params.iterRule s.len).toNat + 1) (start64 s.withoutDigest) = .next t ∧
      Delivered 64 (hash64 s.params s.msg s.len) 0 s t := by
  have hdue : 1 ≤ (iters64 s.params.iterRule s.len).toNat := by
    rw [toNat_iters64 _ (by omega)]
    exact iterCount_pos _ (by omega) (by omega)
  rw [start64_of_65_le (s := s.withoutDigest) h65]
  refine enterLoop_runs_to_delivered (f := round64 s.msg) (g := 64) hc hh hdue
    (fun u hm hmsg => by rw [consumeGroup_m64 hm, hmsg]) (fun u hm _ hb hwork _ => ?_)
  rw [finishStep_m64 hm hb, hwork, hash64_eq_of_any_work _ _ h65 s.work, groups64]
  rfl

/-- Settles O28: a message of at most 64 bytes completes in the start step, and a longer one runs its loop
(`loop64_runs_to_delivered`). -/
theorem hash64RunDeliversTheDigest : Obligations.Hash64RunDeliversTheDigest := by
  refine ⟨fun s hc hwin hh => ?_, hash64_empty⟩
  have hexec : exec (.hash 64) s = .next (start64 s.withoutDigest) := exec_hash_eq_start (.inr (.inl rfl)) hc hwin
  by_cases hlen : s.len.toNat ≤ 64
  · have hplan : hashPlan 64 s.params.iterRule s.len.toNat = none := by simp [hashPlan, hlen]
    rw [start64_of_le_64 (s := s.withoutDigest) hlen] at hexec
    rw [hplan]
    exact ⟨_, ⟨_, hexec, runs_zero _⟩, delivered_complete s 64 _ 0⟩
  · have hplan : planSteps (hashPlan 64 s.params.iterRule s.len.toNat) = (iters64 s.params.iterRule s.len).toNat + 1 := by
      simp [hashPlan, hlen, planSteps, toNat_iters64 s.params.iterRule (n := s.len) (by omega)]
    obtain ⟨t, hrun, hdel⟩ := loop64_runs_to_delivered hc hh (by omega)
    exact ⟨t, ⟨_, hexec, hplan ▸ hrun⟩, hdel⟩

end

end Sys2Proof.Machine
end

section
/-! The 128-bit hashes run to their end (spec/44_hash128.md R160 to R173): their loops read no working register they have not
written, the start, loop and finish steps compute `bodyHash128` of the body, and that body may as well be a message of its own. -/

namespace Sys2Proof.Machine

/-! ### The 128-bit engine reads no working register it has not written (R26, R189) -/

/-- The working registers of the 128-bit engine's long path agree: those of the 64-bit engine and `S.mlen` (R26, R170). -/
def SameWork128 (w w' : Work) : Prop := SameWork64 w w' ∧ w.mlen = w'.mlen

/-- The working registers of CityMurmur agree (R26, R164). -/
def SameWorkCm (w w' : Work) : Prop := (w.a = w'.a ∧ w.b = w'.b) ∧ w.c = w'.c ∧ w.d = w'.d

section
variable {w w' : Work} (m : Message)

theorem sameWork128_seed128 (lo hi soff k : Word) (h : w.mlen = w'.mlen) :
    SameWork128 (seed128 m lo hi soff k w) (seed128 m lo hi soff k w') :=
  ⟨⟨⟨rfl, rfl, rfl⟩, ⟨rfl, rfl⟩, rfl, rfl⟩, h⟩

theorem SameWork128.round128 (h : SameWork128 w w') (p : Word) : SameWork128 (round128 m p w) (round128 m p w') := by
  obtain ⟨hw, hmlen⟩ := h
  refine ⟨?_, by rw [round128_mlen, round128_mlen, hmlen]⟩
  rw [Machine.round128, Machine.round128]
  exact (hw.round64 m p).round64 m (p + 64)

theorem SameWork128.groups128 (h : SameWork128 w w') (k : Nat) (p : Word) :
    SameWork128 (groups128 m k p w) (groups128 m k p w') :=
  groupsOf_related (fun q _ _ h => h.round128 m q) 128 k p w w' h

theorem SameWork64.mixFinish128 (h : SameWork64 w w') : SameWork64 (mixFinish128 w) (mixFinish128 w') := by
  obtain ⟨⟨hx, hy, hz⟩, ⟨hv0, hv1⟩, hw0, hw1⟩ := h
  rw [Machine.mixFinish128, Machine.mixFinish128, hx, hy, hz, hv0, hv1, hw0, hw1]
  exact ⟨⟨rfl, rfl, rfl⟩, ⟨rfl, rfl⟩, rfl, rfl⟩

theorem SameWork64.tailChunk (h : SameWork64 w w') (q : Word) : SameWork64 (tailChunk m q w) (tailChunk m q w') := by
  obtain ⟨⟨hx, hy, hz⟩, ⟨hv0, hv1⟩, hw0, hw1⟩ := h
  simp only [SameWork64, Machine.tailChunk, hx, hy, hz, hv0, hv1, hw0, hw1, and_self]

theorem SameWork64.tailWalk (h : SameWork64 w w') (p rem : Word) (k : Nat) :
    SameWork64 (tailWalk m p rem k w) (tailWalk m p rem k w') := by
  induction k with
  | zero => exact h
  | succ k ih => exact ih.tailChunk m _

theorem SameWork64.final128 (h : SameWork64 w w') : final128 w = final128 w' := by
  obtain ⟨⟨hx, hy, hz⟩, ⟨hv0, hv1⟩, hw0, hw1⟩ := h
  simp only [Machine.final128, hx, hy, hz, hv0, hv1, hw0, hw1]

theorem SameWork128.finish128 (h : SameWork128 w w') (p : Word) : finish128 m p w = finish128 m p w' := by
  obtain ⟨hw, hmlen⟩ := h
  rw [Machine.finish128, Machine.finish128, hmlen]
  exact (hw.mixFinish128.tailWalk m _ _ _).final128

theorem sameWorkCm_seedCm (lo hi soff k : Word) (w w' : Work) :
    SameWorkCm (seedCm m lo hi soff k w) (seedCm m lo hi soff k w') :=
  ⟨⟨rfl, rfl⟩, rfl, rfl⟩

theorem SameWorkCm.roundCm (h : SameWorkCm w w') (p : Word) : SameWorkCm (roundCm m p w) (roundCm m p w') := by
  obtain ⟨⟨ha, hb⟩, hc, hd⟩ := h
  simp only [SameWorkCm, Machine.roundCm, ha, hb, hc, hd, and_self]

theorem SameWorkCm.groupsCm (h : SameWorkCm w w') (k : Nat) (p : Word) :
    SameWorkCm (groupsCm m k p w) (groupsCm m k p w') :=
  groupsOf_related (fun q _ _ h => h.roundCm m q) 16 k p w w' h

theorem SameWorkCm.finishCm (h : SameWorkCm w w') : finishCm w = finishCm w' := by
  obtain ⟨⟨ha, hb⟩, hc, hd⟩ := h
  simp only [Machine.finishCm, ha, hb, hc, hd]

end

/-! ### The body by its buckets (R162) -/

section
variable (m : Message) (lo hi soff : Word) {k : Word}

theorem bodyHash128_of_le_16 (h : k.toNat ≤ 16) : bodyHash128 m lo hi soff k = cmShort m lo hi soff k := by
  rw [bodyHash128, if_neg (by omega), if_pos h]

/-- CityMurmur's loop, whatever the working registers hold before it. -/
theorem bodyHash128_of_17_to_127 (h17 : 17 ≤ k.toNat) (h127 : k.toNat ≤ 127) (w : Work) :
    bodyHash128 m lo hi soff k = finishCm (groupsCm m (itersCm k).toNat soff (seedCm m lo hi soff k w)) := by
  rw [bodyHash128, if_neg (by omega), if_neg (by omega)]
  exact ((sameWorkCm_seedCm m lo hi soff k _ w).groupsCm m _ soff).finishCm

/-- The long path, whatever the working registers but `S.mlen` hold before it. -/
theorem bodyHash128_of_128_le (h128 : 128 ≤ k.toNat) {w : Work} (hw : w.mlen = k) :
    bodyHash128 m lo hi soff k =
      finish128 m (soff + 128 * iters128 k) (groups128 m (iters128 k).toNat soff (seed128 m lo hi soff k w)) := by
  rw [bodyHash128, if_pos h128]
  exact ((sameWork128_seed128 m lo hi soff k hw.symm).groups128 m _ soff).finish128 m _

end

/-! ### `HASH 128` and `HASH128S` deliver `hash128` and `hash128s` of the message -/

section
variable {s : State} (lo hi soff : Word) {k : Word}

theorem body128_of_le_16 (h : k.toNat ≤ 16) :
    body128 s lo hi soff k =
      s.complete 128 (bodyHash128 s.msg lo hi soff k).1 (bodyHash128 s.msg lo hi soff k).2 := by
  rw [body128, if_neg (by omega), if_pos h, bodyHash128_of_le_16 _ _ _ _ h]

theorem body128_of_17_to_127 (h17 : 17 ≤ k.toNat) (h127 : k.toNat ≤ 127) :
    body128 s lo hi soff k =
      s.enterLoop .mcm soff (itersCm k) (seedCm s.msg lo hi soff k { s.work with soff := soff, mlen := k }) := by
  rw [body128, if_neg (by omega), if_neg (by omega)]

theorem body128_of_128_le (h128 : 128 ≤ k.toNat) :
    body128 s lo hi soff k =
      s.enterLoop .m128 soff (iters128 k) (seed128 s.msg lo hi soff k { s.work with soff := soff, mlen := k }) := by
  rw [body128, if_pos h128]

theorem consumeGroup_m128 (hm : s.mode = .m128) : consumeGroup s = s.advance 128 (round128 s.msg s.pos s.work) := by
  rw [consumeGroup_eq, hm]

theorem consumeGroup_mcm (hm : s.mode = .mcm) : consumeGroup s = s.advance 16 (roundCm s.msg s.pos s.work) := by
  rw [consumeGroup_eq, hm]

theorem deliver128_kept (d : Word × Word) (hb : s.dutyBroken = false) : deliver128 s d = s.deliver 128 d.1 d.2 := by
  simp only [deliver128, State.promised_kept _ _ _ hb]

/-- The finish step of mode `M128` delivers its digest, where the host left the window alone (R172, R35). -/
theorem finishStep_m128 (hm : s.mode = .m128) (hb : s.dutyBroken = false) :
    finishStep s = s.deliver 128 (finish128 s.msg s.pos s.work).1 (finish128 s.msg s.pos s.work).2 := by
  rw [finishStep, hm]
  exact deliver128_kept _ hb

/-- The finish step of mode `MCM` delivers its digest, where the host left the window alone (R166, R35). -/
theorem finishStep_mcm (hm : s.mode = .mcm) (hb : s.dutyBroken = false) :
    finishStep s = s.deliver 128 (finishCm s.work).1 (finishCm s.work).2 := by
  rw [finishStep, hm]
  exact deliver128_kept _ hb

/-- CityMurmur's loop runs to the hash of its body (R164 to R166). -/
theorem loopCm_runs_to_delivered (hc : s.cancel = false) (hh : s.host = []) (h17 : 17 ≤ k.toNat) (h127 : k.toNat ≤ 127) :
    ∃ t, runs ((itersCm k).toNat + 1) (body128 s.withoutDigest lo hi soff k) = .next t ∧
      Delivered 128 (bodyHash128 s.msg lo hi soff k).1 (bodyHash128 s.msg lo hi soff k).2 s t := by
  have hdue : 1 ≤ (itersCm k).toNat := by
    rw [toNat_itersCm (by omega)]
    omega
  rw [body128_of_17_to_127 lo hi soff h17 h127]
  refine enterLoop_runs_to_delivered (f := roundCm s.msg) (g := 16) hc hh hdue
    (fun u hm hmsg => by rw [consumeGroup_mcm hm, hmsg]) (fun u hm _ hb hwork _ => ?_)
  rw [finishStep_mcm hm hb, hwork,
    bodyHash128_of_17_to_127 _ lo hi soff h17 h127 { s.work with soff := soff, mlen := k }, groupsCm]
  rfl

/-- The loop over 128-byte groups runs to the hash of its body: it ends at the offset where the tail walk starts (R170 to
R172). -/
theorem loop128_runs_to_delivered (hc : s.cancel = false) (hh : s.host = []) (h128 : 128 ≤ k.toNat) :
    ∃ t, runs ((iters128 k).toNat + 1) (body128 s.withoutDigest lo hi soff k) = .next t ∧
      Delivered 128 (bodyHash128 s.msg lo hi soff k).1 (bodyHash128 s.msg lo hi soff k).2 s t := by
  have hdue : 1 ≤ (iters128 k).toNat := by
    rw [toNat_iters128]
    omega
  rw [body128_of_128_le lo hi soff h128]
  refine enterLoop_runs_to_delivered (f := round128 s.msg) (g := 128) hc hh hdue
    (fun u hm hmsg => by rw [consumeGroup_m128 hm, hmsg]) (fun u hm hmsg hb hwork hpos => ?_)
  rw [finishStep_m128 hm hb, hmsg, hwork, hpos,
    bodyHash128_of_128_le _ lo hi soff h128 (w := { s.work with soff := soff, mlen := k }) rfl, groups128]
  rfl

/-- The body of a 128-bit hash, run for the steps its plan names, delivers its hash in each of the three buckets (R162, R173). -/
theorem body128_runs_to_delivered (hc : s.cancel = false) (hh : s.host = []) (k : Word) :
    ∃ t, runs (planSteps (bodyPlan soff.toNat k.toNat)) (body128 s.withoutDigest lo hi soff k) = .next t ∧
      Delivered 128 (bodyHash128 s.msg lo hi soff k).1 (bodyHash128 s.msg lo hi soff k).2 s t := by
  by_cases h128 : 128 ≤ k.toNat
  · rw [bodyPlan, if_pos h128, planSteps, ← toNat_iters128]
    exact loop128_runs_to_delivered lo hi soff hc hh h128
  · by_cases h16 : k.toNat ≤ 16
    · rw [bodyPlan, if_neg h128, if_pos h16, body128_of_le_16 lo hi soff h16]
      exact ⟨_, runs_zero _, delivered_complete s 128 _ _⟩
    · rw [bodyPlan, if_neg h128, if_neg h16, planSteps, ← toNat_itersCm (by omega)]
      exact loopCm_runs_to_delivered lo hi soff hc hh (by omega) (by omega)

end

/-- A message of 16 bytes or more has the rest of it as its body (R160). -/
theorem hashPlan_128_of_16_le (r : IterRule) {n : Word} (h16 : 16 ≤ n.toNat) :
    hashPlan 128 r n.toNat = bodyPlan (16 : Word).toNat (n - 16).toNat := by
  have hrest : (n - 16).toNat = n.toNat - 16 := by bv_omega
  rw [hrest]
  simp [hashPlan, h16]

/-- A message of fewer than 16 bytes is its own body (R160). -/
theorem hashPlan_128_of_lt_16 (r : IterRule) {n : Word} (h16 : ¬ 16 ≤ n.toNat) :
    hashPlan 128 r n.toNat = bodyPlan (0 : Word).toNat n.toNat := by
  simp [hashPlan, h16]

/-- The start step of `HASH 128`, run for the steps its plan names, delivers `hash128` of the message (R160, R173). -/
theorem start128_runs_to_delivered {s : State} (hc : s.cancel = false) (hh : s.host = []) :
    ∃ t, runs (planSteps (hashPlan 128 s.params.iterRule s.len.toNat)) (start128 s.withoutDigest) = .next t ∧
      Delivered 128 (hash128 s.msg s.len).1 (hash128 s.msg s.len).2 s t := by
  by_cases h16 : 16 ≤ s.len.toNat
  · rw [hashPlan_128_of_16_le _ h16, start128, if_pos (by exact h16), hash128, if_pos h16]
    exact body128_runs_to_delivered _ _ 16 hc hh (s.len - 16)
  · rw [hashPlan_128_of_lt_16 _ h16, start128, if_neg (by exact h16), hash128, if_neg h16]
    exact body128_runs_to_delivered K0 K1 0 hc hh s.len

/-- Settles O29: either command is its start step, which is the body of a 128-bit hash under its seed
(`body128_runs_to_delivered`). -/
theorem hash128RunsDeliverTheDigest : Obligations.Hash128RunsDeliverTheDigest := by
  refine fun s hc hwin hh => ⟨?_, ?_⟩
  · have hexec : exec (.hash 128) s = .next (start128 s.withoutDigest) := exec_hash_eq_start (.inr (.inr rfl)) hc hwin
    obtain ⟨t, hrun, hdel⟩ := start128_runs_to_delivered hc hh
    exact ⟨t, ⟨_, hexec, hrun⟩, hdel⟩
  · have hexec : exec .hash128s s = .next (start128s s.withoutDigest) := by
      rw [exec, execHash128s, acceptHash_eq_start _ hc hwin]
    obtain ⟨t, hrun, hdel⟩ := body128_runs_to_delivered (s.operand 0 0) (s.operand 1 1) 0 hc hh s.len
    exact ⟨t, ⟨_, hexec, hrun⟩, hdel⟩

/-! ### A message without its first bytes (R161)

The engine reads its body only at offsets counted from the body's start, so that `hash128` of a message may be taken of the
body alone. -/

/-- The message without its first `d` bytes. -/
def Message.dropBytes (m : Message) (d : Word) : Message := { m with base := m.base + d }

section
variable (m : Message) (d : Word)

@[simp] theorem Message.fetch8_dropBytes (o : Word) : (m.dropBytes d).fetch8 o = m.fetch8 (d + o) := by
  rw [Message.fetch8, Message.fetch8, Message.dropBytes, BitVec.add_assoc]

@[simp] theorem Message.fetch32_dropBytes (o : Word) : (m.dropBytes d).fetch32 o = m.fetch32 (d + o) := by
  rw [Message.fetch32, Message.fetch32, Message.dropBytes, BitVec.add_assoc]

@[simp] theorem Message.fetch64_dropBytes (o : Word) : (m.dropBytes d).fetch64 o = m.fetch64 (d + o) := by
  rw [Message.fetch64, Message.fetch64, Message.dropBytes, BitVec.add_assoc]

@[simp] theorem Message.weakm_dropBytes (o a b : Word) : (m.dropBytes d).weakm o a b = m.weakm (d + o) a b := by
  simp only [Message.weakm, Message.fetch64_dropBytes, BitVec.add_assoc]

theorem h64_0to16_dropBytes (o k : Word) : h64_0to16 (m.dropBytes d) o k = h64_0to16 m (d + o) k := by
  simp only [h64_0to16, Message.fetch8_dropBytes, Message.fetch32_dropBytes, Message.fetch64_dropBytes,
    BitVec.sub_eq_add_neg, BitVec.add_assoc]

theorem cmShort_dropBytes (lo hi o k : Word) : cmShort (m.dropBytes d) lo hi o k = cmShort m lo hi (d + o) k := by
  simp only [cmShort, h64_0to16_dropBytes, Message.fetch64_dropBytes]

theorem seedCm_dropBytes (lo hi o k : Word) (w : Work) :
    seedCm (m.dropBytes d) lo hi o k w = seedCm m lo hi (d + o) k w := by
  simp only [seedCm, Message.fetch64_dropBytes, BitVec.sub_eq_add_neg, BitVec.add_assoc]

theorem roundCm_dropBytes (p : Word) (w : Work) : roundCm (m.dropBytes d) p w = roundCm m (d + p) w := by
  simp only [roundCm, Message.fetch64_dropBytes, BitVec.add_assoc]

theorem seed128_dropBytes (lo hi o k : Word) (w : Work) :
    seed128 (m.dropBytes d) lo hi o k w = seed128 m lo hi (d + o) k w := by
  simp only [seed128, Message.fetch64_dropBytes, BitVec.add_assoc]

theorem round64_dropBytes (p : Word) (w : Work) : round64 (m.dropBytes d) p w = round64 m (d + p) w := by
  simp only [round64, Message.fetch64_dropBytes, Message.weakm_dropBytes, BitVec.add_assoc]

theorem round128_dropBytes (p : Word) (w : Work) : round128 (m.dropBytes d) p w = round128 m (d + p) w := by
  rw [round128, round128, round64_dropBytes, round64_dropBytes, BitVec.add_assoc]

/-- Rounds that agree at offsets `d` apart make loops that agree at offsets `d` apart. -/
theorem groupsOf_add_offset {f f' : Word → Work → Work} (hf : ∀ p w, f' p w = f (d + p) w) (g : Word) (k : Nat) :
    ∀ p w, groupsOf f' g k p w = groupsOf f g k (d + p) w := by
  induction k with
  | zero => exact fun _ _ => rfl
  | succ k ih => exact fun p w => by rw [groupsOf, groupsOf, ih, hf, BitVec.add_assoc]

theorem groups128_dropBytes (k : Nat) (p : Word) (w : Work) :
    groups128 (m.dropBytes d) k p w = groups128 m k (d + p) w :=
  groupsOf_add_offset d (round128_dropBytes m d) 128 k p w

theorem groupsCm_dropBytes (k : Nat) (p : Word) (w : Work) : groupsCm (m.dropBytes d) k p w = groupsCm m k (d + p) w :=
  groupsOf_add_offset d (roundCm_dropBytes m d) 16 k p w

theorem tailChunk_dropBytes (q : Word) (w : Work) : tailChunk (m.dropBytes d) q w = tailChunk m (d + q) w := by
  simp only [tailChunk, Message.fetch64_dropBytes, Message.weakm_dropBytes, BitVec.add_assoc]

theorem tailWalk_dropBytes (p rem : Word) (k : Nat) (w : Work) :
    tailWalk (m.dropBytes d) p rem k w = tailWalk m (d + p) rem k w := by
  induction k with
  | zero => rfl
  | succ k ih => simp only [tailWalk, ih, tailChunk_dropBytes, BitVec.sub_eq_add_neg, BitVec.add_assoc]

theorem finish128_dropBytes (p : Word) (w : Work) : finish128 (m.dropBytes d) p w = finish128 m (d + p) w := by
  rw [finish128, finish128, tailWalk_dropBytes]

/-- The hash of a body does not depend on where in the message the body starts (R162): `S.soff`, which differs, is not read
(`bodyHash128_of_17_to_127`, `bodyHash128_of_128_le`). -/
theorem bodyHash128_dropBytes (lo hi o k : Word) :
    bodyHash128 (m.dropBytes d) lo hi o k = bodyHash128 m lo hi (d + o) k := by
  by_cases h128 : 128 ≤ k.toNat
  · have hmlen : ({ Work.zero with mlen := k } : Work).mlen = k := rfl
    rw [bodyHash128_of_128_le _ lo hi o h128 hmlen, bodyHash128_of_128_le _ lo hi (d + o) h128 hmlen, finish128_dropBytes,
      groups128_dropBytes, seed128_dropBytes, BitVec.add_assoc]
  · by_cases h16 : k.toNat ≤ 16
    · rw [bodyHash128_of_le_16 _ lo hi o h16, bodyHash128_of_le_16 _ lo hi (d + o) h16, cmShort_dropBytes]
    · rw [bodyHash128_of_17_to_127 _ lo hi o (by omega) (by omega) Work.zero,
        bodyHash128_of_17_to_127 _ lo hi (d + o) (by omega) (by omega) Work.zero, groupsCm_dropBytes, seedCm_dropBytes]

end

/-- Settles O31: from 16 bytes on `hash128` hashes the body at offset 16, which is the message without its first 16 bytes at
offset 0 (`bodyHash128_dropBytes`); a shorter message is its own body under `(K0, K1)`. -/
theorem hash128IsTheSeededHash : Obligations.Hash128IsTheSeededHash := by
  refine fun m n => ⟨fun h16 => ?_, fun h16 => ?_⟩
  · rw [hash128, if_pos h16]
    exact (bodyHash128_dropBytes m 16 (m.fetch64 0) (m.fetch64 8 + K0) 0 (n - 16)).symm
  · rw [hash128, if_neg (by omega), hash128s]

end Sys2Proof.Machine
end

section
/-! The system commands, the resets and the checks at the top of a hash (spec/45_system.md R187, R190, R191, R230). -/

namespace Sys2Proof.Machine

/-! ### `NOP` and an unsupported width -/

/-- Ending without a condition writes `COND` alone (R190). -/
theorem primitiveFrame_ok (s : State) : PrimitiveFrame [] s s.ok :=
  ⟨⟨fun _ _ => ⟨rfl, rfl⟩, ⟨rfl, rfl, rfl⟩, ⟨rfl, rfl, rfl⟩, fun _ => rfl⟩, ⟨rfl, rfl, rfl, rfl, rfl⟩,
    ⟨rfl, rfl, rfl, rfl⟩, rfl⟩

/-- An unsupported width is found before anything else (R187 step 2, R201). -/
theorem exec_hash_unsupported {w : BitVec 8} (hw : supportedWidth w = false) (s : State) :
    exec (.hash w) s = .next (s.withoutDigest.raise .unsupportedWidth) := by
  rw [exec, execHash, hw]
  rfl

/-- While idle and with no valid digest `STATUS` shows the condition alone (R29). -/
theorem status_toNat_of_idle_of_cleared {s : State} (hp : s.phase = .idle) (hdv : s.dv = false) (hdw : s.dw = 0) :
    s.status.toNat = 16 * s.cond.code.toNat := by
  simp [status_toNat, hp, hdv, hdw, Phase.code]

/-- Settles O21: `NOP` is `State.ok`, and `HASH 7` raises `UNSUPPORTED_WIDTH` with the old digest given up. -/
theorem nopOnlyClearsTheCondition : Obligations.NopOnlyClearsTheCondition := by
  refine ⟨fun s => ⟨_, rfl, rfl, primitiveFrame_ok s⟩, fun s => ?_⟩
  refine ⟨_, _, exec_hash_unsupported (by decide) s, BitVec.eq_of_toNat_eq ?_, rfl, BitVec.eq_of_toNat_eq ?_⟩
  · exact status_toNat_of_idle_of_cleared rfl rfl rfl
  · exact status_toNat_of_idle_of_cleared rfl rfl rfl

/-! ### The resets -/

/-- The state after a reset has the listed values, and a read of an operand register is any value (R42, R191, R230). -/
theorem afterReset_resetCore (s : State) :
    AfterReset s s.resetCore ∧ ∀ slot i, s.resetCore.operand slot i = Config.freeWord s.resetCore.draws slot := by
  have hwritten (i : Reg) : s.resetCore.written[i] = false := by simp
  exact ⟨⟨rfl, rfl, rfl, rfl, rfl, rfl, rfl, rfl, rfl, rfl, ⟨rfl, rfl⟩, fun i => ⟨rfl, hwritten i⟩,
      fun _ => rfl, rfl, rfl, rfl⟩,
    fun slot i => State.operand_unwritten _ _ _ (hwritten i)⟩

theorem step_of_reset {s : State} {rest : List HostMove} (hh : s.host = .reset :: rest) :
    step s = .next (State.resetCore { s with host := rest }) :=
  step_of_turn_done (by rw [turn, hh])

/-- Settles O22: `SRESET` and the reset input are both `State.resetCore`. -/
theorem resetsGiveTheListedValues : Obligations.ResetsGiveTheListedValues :=
  ⟨fun s => ⟨_, rfl, afterReset_resetCore s⟩, fun _ _ hh => ⟨_, step_of_reset hh, afterReset_resetCore _⟩⟩

/-! ### The checks at the top of a hash -/

/-- A hash of a supported width is the common part of R187 with its start step. -/
theorem exec_hash_eq_acceptHash {i : Instr} (hi : i = .hash 32 ∨ i = .hash 64 ∨ i = .hash 128 ∨ i = .hash128s) :
    ∃ start, ∀ s, exec i s = .next (s.acceptHash true start) := by
  rcases hi with rfl | rfl | rfl | rfl
  · exact ⟨startHash 32, fun _ => rfl⟩
  · exact ⟨startHash 64, fun _ => rfl⟩
  · exact ⟨startHash 128, fun _ => rfl⟩
  · exact ⟨start128s, fun _ => rfl⟩

/-- The cancellation check stands before the window check (R187, R206). -/
theorem acceptHash_cancelled {s : State} (start : State → State) (hc : s.cancel = true) :
    s.acceptHash true start = s.withoutDigest.raise .cancelled :=
  if_pos hc

theorem acceptHash_wraps {s : State} (start : State → State) (hc : s.cancel = false)
    (hwin : 2 ^ 64 < s.base.toNat + s.len.toNat) : s.acceptHash true start = s.withoutDigest.raise .bounds := by
  rcases State.acceptHash_cases s true start with ⟨h, -⟩ | ⟨-, h, -⟩ | ⟨-, -, -, e⟩ | ⟨-, -, h, -⟩
  · cases h
  · rw [hc] at h; cases h
  · exact e
  · rw [(State.windowWraps_iff s).mpr hwin] at h; cases h

/-- A raise at the top of a hash gives up the old digest's validity and nothing else of the frame (R187, R203). -/
theorem raised_withoutDigest (c : Cond) (s : State) :
    Raised c s (s.withoutDigest.raise c) ∧ (s.withoutDigest.raise c).dv = false ∧ (s.withoutDigest.raise c).dw = 0 :=
  ⟨raised_raise c s.withoutDigest, rfl, rfl⟩

/-- Settles O25: either raise is one of the checks of `State.acceptHash`. -/
theorem cancellationThenBoundsAtTheTop : Obligations.CancellationThenBoundsAtTheTop := by
  intro i s hi
  obtain ⟨start, hexec⟩ := exec_hash_eq_acceptHash hi
  refine ⟨fun hc => ⟨_, ?_, raised_withoutDigest .cancelled s⟩, fun hc hwin => ⟨_, ?_, raised_withoutDigest .bounds s⟩⟩
  · rw [hexec, acceptHash_cancelled start hc]
  · rw [hexec, acceptHash_wraps start hc hwin]

end Sys2Proof.Machine
end

section
/-! How long a hash runs (spec/45_system.md R188): the loop's steps one by one, its end, and the bound on its iterations. -/

namespace Sys2Proof.Machine

section
variable {s : State}

/-- A loop step without a cancellation consumes a group (R185, R205). -/
theorem sequencerStep_loop (hp : s.phase = .loop) (hc : s.cancel = false) : sequencerStep s = consumeGroup s := by
  simp [sequencerStep, loopStep, hp, hc]

theorem sequencerStep_cancelled (hp : s.phase = .loop) (hc : s.cancel = true) : sequencerStep s = s.raise .cancelled := by
  simp [sequencerStep, loopStep, hp, hc]

theorem sequencerStep_fin (hp : s.phase = .fin) : sequencerStep s = finishStep s := by
  rw [sequencerStep, hp]

theorem sequencerStep_idle (hp : s.phase = .idle) : sequencerStep s = s := by
  rw [sequencerStep, hp]

/-- A hash that entered its loop in `s` with `CNT = c` and has taken `j` loop steps since: it stands at its finish step exactly
when `c` steps are taken (R28, R188). -/
def LoopedFor (j : Nat) (s t : State) : Prop :=
  t.phase = (if j = s.cnt.toNat then .fin else .loop) ∧ t.cnt.toNat + j = s.cnt.toNat ∧ t.cancel = s.cancel ∧
    t.host = s.host ∧ t.cond = s.cond

theorem loopedFor_zero (hp : s.phase = .loop) (hdue : 1 ≤ s.cnt.toNat) : LoopedFor 0 s s :=
  ⟨by rw [if_neg (by omega), hp], rfl, rfl, rfl, rfl⟩

/-- A group consumed is a loop step taken, and the last due one leads to the finish step. -/
theorem LoopedFor.consumeGroup {j : Nat} {t : State} (h : LoopedFor j s t) (hj : j < s.cnt.toNat) :
    LoopedFor (j + 1) s (consumeGroup t) := by
  obtain ⟨hphase, hcnt, hcancel, hhost, hcond⟩ := h
  obtain ⟨g, w, e⟩ := consumeGroup_cases t
  have hdue : 1 ≤ t.cnt.toNat := by omega
  rw [if_neg (by omega)] at hphase
  refine ⟨?_, ?_, ?_, ?_, ?_⟩ <;> rw [e]
  · rw [advance_phase_of_due hdue, hphase]
    exact if_congr (by omega) rfl rfl
  · rw [State.advance_cnt, toNat_sub_one hdue]
    omega
  · exact hcancel
  · exact hhost
  · exact hcond

/-- Each step up to the last iteration due is a loop step. -/
theorem runs_loopedFor (hp : s.phase = .loop) (hdue : 1 ≤ s.cnt.toNat) (hh : s.host = []) (hc : s.cancel = false) (j : Nat)
    (hj : j ≤ s.cnt.toNat) : ∃ t, runs j s = .next t ∧ LoopedFor j s t := by
  induction j with
  | zero => exact ⟨s, runs_zero s, loopedFor_zero hp hdue⟩
  | succ j ih =>
    obtain ⟨t, hrun, hloop⟩ := ih (by omega)
    have hnext := hloop.consumeGroup hj
    obtain ⟨hphase, -, hcancel, hhost, -⟩ := hloop
    rw [if_neg (by omega)] at hphase
    have hstep : step t = .next (consumeGroup t) := by
      rw [step_of_no_host (hhost.trans hh), sequencerStep_loop hphase (hcancel.trans hc)]
    exact ⟨_, runs_then_step j s t _ hrun hstep, hnext⟩

/-- After the last loop step the finish step ends the hash with its digest (R188). -/
theorem runs_to_finish (hp : s.phase = .loop) (hdue : 1 ≤ s.cnt.toNat) (hh : s.host = []) (hc : s.cancel = false) :
    ∃ t, runs (s.cnt.toNat + 1) s = .next t ∧ t.phase = .idle ∧ t.dv = true ∧ t.cond = s.cond := by
  obtain ⟨t, hrun, hphase, -, -, hhost, hcond⟩ := runs_loopedFor hp hdue hh hc s.cnt.toNat le_rfl
  rw [if_pos rfl] at hphase
  obtain ⟨w, d0, d1, e, -⟩ := finishStep_cases t
  have hstep : step t = .next (t.deliver w d0 d1) := by
    rw [step_of_no_host (hhost.trans hh), sequencerStep_fin hphase, e]
  exact ⟨_, runs_then_step _ s t _ hrun hstep, rfl, rfl, hcond⟩

/-- What is left of the groups lies inside the message (R28, R207). -/
theorem State.Inv.groups_left_le_len (hs : s.Inv) (hbusy : s.phase ≠ .idle) : s.mode.group * s.cnt.toNat ≤ s.len.toNat :=
  calc s.mode.group * s.cnt.toNat ≤ s.pos.toNat + s.mode.group * s.cnt.toNat := Nat.le_add_left _ _
    _ = s.loopStart + s.mode.group * s.loopCount := hs.position hbusy
    _ ≤ s.len.toNat := loop_end_le_len (hs.long hbusy)

theorem sixteen_le_group (m : Mode) : 16 ≤ m.group := by
  cases m <;> decide

end

/-- Settles O32: the loop's steps (`runs_loopedFor`), the finish step after them, and the raise of a cancelled loop step. -/
theorem everyHashTerminates : Obligations.EveryHashTerminates := by
  refine fun s hp hdue hh => ⟨fun hc => ⟨fun j hj => ?_, runs_to_finish hp hdue hh hc⟩, fun hc => ?_⟩
  · obtain ⟨t, hrun, hphase, -⟩ := runs_loopedFor hp hdue hh hc j hj
    exact ⟨t, hrun, hphase⟩
  · have hstep : step s = .next (s.raise .cancelled) := by
      rw [step_of_no_host hh, sequencerStep_cancelled hp hc]
    exact ⟨_, runs_step hstep, rfl, rfl⟩

/-- Settles O33: the groups left lie inside the message, and no group is shorter than 16 bytes. -/
theorem iterationsLeftAreBounded : Obligations.IterationsLeftAreBounded := by
  intro s hs hp
  rw [Nat.le_div_iff_mul_le (by omega)]
  calc s.cnt.toNat * 16 = 16 * s.cnt.toNat := Nat.mul_comm _ _
    _ ≤ s.mode.group * s.cnt.toNat := Nat.mul_le_mul_right _ (sixteen_le_group s.mode)
    _ ≤ s.len.toNat := hs.groups_left_le_len (by simp [hp])

end Sys2Proof.Machine
end

section
/-! The host beside the sequencer (spec/45_system.md R185, R193, R194): its part of the state, a memory write, a held write, and
that the course of the machine does not depend on the memory. -/

namespace Sys2Proof.Machine

/-! ### The host's moves to come -/

/-- The state with other host moves to come. -/
def State.withHost (s : State) (moves : List HostMove) : State := { s with host := moves }

section
variable {s : State}

@[simp] theorem State.withHost_mode (s : State) (moves : List HostMove) : (s.withHost moves).mode = s.mode := rfl

theorem consumeGroup_withHost (s : State) (moves : List HostMove) :
    consumeGroup (s.withHost moves) = (consumeGroup s).withHost moves := by
  simp only [consumeGroup_eq, State.withHost_mode]
  cases s.mode <;> rfl

theorem finishStep_withHost (s : State) (moves : List HostMove) :
    finishStep (s.withHost moves) = (finishStep s).withHost moves := by
  simp only [finishStep, State.withHost_mode]
  cases s.mode <;> rfl

/-- The sequencer's own step does not look at the host's moves (R185). -/
theorem sequencerStep_withHost (s : State) (moves : List HostMove) :
    sequencerStep (s.withHost moves) = (sequencerStep s).withHost moves := by
  cases hp : s.phase
  case idle => rw [sequencerStep_idle (s := s.withHost moves) hp, sequencerStep_idle hp]
  case loop =>
    cases hc : s.cancel
    · rw [sequencerStep_loop (s := s.withHost moves) hp hc, sequencerStep_loop hp hc, consumeGroup_withHost]
    · rw [sequencerStep_cancelled (s := s.withHost moves) hp hc, sequencerStep_cancelled hp hc]
      rfl
  case fin => rw [sequencerStep_fin (s := s.withHost moves) hp, sequencerStep_fin hp, finishStep_withHost]

/-! ### A memory write -/

theorem step_of_memWrite {a : Word} {b : Byte} {rest : List HostMove} (hh : s.host = .memWrite a b :: rest) :
    step s = .next (State.memWrite { s with host := rest } a b) :=
  step_of_turn_done (by rw [turn, hh])

/-- Settles O37: the memory's laws for the bytes, and `State.memWrite` writes no register. -/
theorem hostMemoryWriteChangesOneByte : Obligations.HostMemoryWriteChangesOneByte := fun _ a b _ hwf hh =>
  ⟨_, step_of_memWrite hh, Memory.wf_write hwf a.isLt b, Memory.read_write_same hwf a.toNat b,
    fun _ ha => Memory.read_write_other _ b ha, fun _ _ => ⟨rfl, rfl⟩, ⟨rfl, rfl, rfl, rfl, rfl⟩, ⟨rfl, rfl, rfl, rfl⟩,
    ⟨rfl, rfl, rfl⟩, rfl, rfl⟩

/-! ### A held write -/

theorem State.whenIdle_of_busy (hp : s.phase ≠ .idle) (t : Turn) : s.whenIdle t = .done (sequencerStep s) := by
  simp [State.whenIdle, State.busy_eq, hp]

/-- A write the host may make only while idle is held while busy, and the sequencer moves (R193). -/
theorem step_of_held_write {off : Nat} {d : Word} {rest : List HostMove} (hp : s.phase ≠ .idle) (hoff : idleOnly off)
    (hh : s.host = .busWrite off 64 d :: rest) : step s = .next (sequencerStep s) := by
  refine step_of_turn_done ?_
  rcases hoff with ⟨i, rfl⟩ | rfl | rfl | rfl
  · rw [turn_of_busWrite hh (busReg_operand i), State.busWrite, State.whenIdle_of_busy hp]
  · rw [turn_of_busWrite (r := .cmd) hh rfl, State.busWrite, State.whenIdle_of_busy hp]
  · rw [turn_of_busWrite (r := .base) hh rfl, State.busWrite, State.whenIdle_of_busy hp]
  · rw [turn_of_busWrite (r := .len) hh rfl, State.busWrite, State.whenIdle_of_busy hp]

/-- Settles O46: the held write leaves the step to the sequencer (`step_of_held_write`), which does not look at the host's moves
(`sequencerStep_withHost`). -/
theorem writesAreHeldWhileBusy : Obligations.WritesAreHeldWhileBusy := by
  intro s off d rest hp hoff hh
  obtain ⟨hhost, -⟩ := sequencerStep_frame s
  refine ⟨_, step_of_held_write hp hoff hh, hhost, ?_⟩
  exact (step_of_no_host (s := s.withHost []) rfl).trans (congrArg _ (sequencerStep_withHost s []))

end

/-! ### The course of the machine under another memory -/

/-- Where a check reads no memory, each of its branches may be looked at alone. -/
theorem SameCourse.ite {c : Prop} [Decidable c] {t u t' u' : State} (ht : SameCourse t t') (hu : SameCourse u u') :
    SameCourse (if c then t else u) (if c then t' else u') := by
  split
  · exact ht
  · exact hu

/-- The ends of a command with one state and the state with another memory follow the same course, whatever digest, operand or
working registers they write. -/
theorem sameCourse_raise (s : State) (m : Memory) (c : Cond) : SameCourse (s.raise c) ((s.withMem m).raise c) :=
  ⟨rfl, rfl, rfl, rfl, rfl, rfl, rfl⟩

theorem sameCourse_result64 (s : State) (m : Memory) (rd : Reg) (v v' : Word) :
    SameCourse (s.result64 rd v) ((s.withMem m).result64 rd v') :=
  ⟨rfl, rfl, rfl, rfl, rfl, rfl, rfl⟩

theorem sameCourse_resultPair (s : State) (m : Memory) (p p' : WeakPair) :
    SameCourse (s.resultPair p) ((s.withMem m).resultPair p') :=
  ⟨rfl, rfl, rfl, rfl, rfl, rfl, rfl⟩

theorem sameCourse_deliver (s : State) (m : Memory) (w : BitVec 8) (d0 d1 d0' d1' : Word) :
    SameCourse (s.deliver w d0 d1) ((s.withMem m).deliver w d0' d1') :=
  ⟨rfl, rfl, rfl, rfl, rfl, rfl, rfl⟩

theorem sameCourse_complete (s : State) (m : Memory) (w : BitVec 8) (d0 d1 d0' d1' : Word) :
    SameCourse (s.complete w d0 d1) ((s.withMem m).complete w d0' d1') :=
  ⟨rfl, rfl, rfl, rfl, rfl, rfl, rfl⟩

theorem sameCourse_enterLoop (s : State) (m : Memory) (md : Mode) (pos cnt : Word) (w w' : Work) :
    SameCourse (s.enterLoop md pos cnt w) ((s.withMem m).enterLoop md pos cnt w') :=
  ⟨rfl, rfl, rfl, rfl, rfl, rfl, rfl⟩

theorem sameCourse_advance (s : State) (m : Memory) (g : Word) (w w' : Work) :
    SameCourse (s.advance g w) ((s.withMem m).advance g w') :=
  ⟨rfl, rfl, rfl, rfl, rfl, rfl, rfl⟩

/-! The buckets are by the length, so each start step takes the same one (R194). -/

theorem start32_sameCourse (s : State) (m : Memory) : SameCourse (start32 s) (start32 (s.withMem m)) :=
  .ite (sameCourse_complete ..) <| .ite (sameCourse_complete ..) <| .ite (sameCourse_complete ..) (sameCourse_enterLoop ..)

theorem start64_sameCourse (s : State) (m : Memory) : SameCourse (start64 s) (start64 (s.withMem m)) :=
  .ite (sameCourse_complete ..) <| .ite (sameCourse_complete ..) <| .ite (sameCourse_complete ..) (sameCourse_enterLoop ..)

theorem body128_sameCourse (s : State) (m : Memory) (lo hi lo' hi' soff k : Word) :
    SameCourse (body128 s lo hi soff k) (body128 (s.withMem m) lo' hi' soff k) :=
  .ite (sameCourse_enterLoop ..) <| .ite (sameCourse_complete ..) (sameCourse_enterLoop ..)

theorem startHash_sameCourse (w : BitVec 8) (s : State) (m : Memory) :
    SameCourse (startHash w s) (startHash w (s.withMem m)) :=
  .ite (start32_sameCourse s m) <| .ite (start64_sameCourse s m) <| .ite (body128_sameCourse ..) (body128_sameCourse ..)

/-- The checks of R187 read no memory. -/
theorem acceptHash_sameCourse (ok : Bool) {start : State → State} (s : State) (m : Memory)
    (h : ∀ u : State, SameCourse (start u) (start (u.withMem m))) :
    SameCourse (s.acceptHash ok start) ((s.withMem m).acceptHash ok start) :=
  .ite (sameCourse_raise s.withoutDigest m _) <| .ite (sameCourse_raise s.withoutDigest m _) <|
    .ite (sameCourse_raise s.withoutDigest m _) (h s.withoutDigest)

/-- The check of a message read reads no memory. -/
theorem messageRead_sameCourse (s : State) (m : Memory) (o : Word) (k : Nat) {t t' : State} (h : SameCourse t t') :
    ∃ u u', (if s.outOfBounds o k then .next (s.raise .bounds) else .next t) =
        (.next u : Host.Outcome State Fault Refusal) ∧
      (if (s.withMem m).outOfBounds o k then .next ((s.withMem m).raise .bounds) else .next t') =
        (.next u' : Host.Outcome State Fault Refusal) ∧ SameCourse u u' := by
  by_cases hout : s.outOfBounds o k = true
  · exact ⟨_, _, if_pos hout, if_pos hout, sameCourse_raise s m .bounds⟩
  · exact ⟨_, _, if_neg hout, if_neg hout, h⟩

theorem exec_sameCourse (i : Instr) (s : State) (m : Memory) :
    ∃ t u, exec i s = .next t ∧ exec i (s.withMem m) = .next u ∧ SameCourse t u := by
  cases i
  case weakm rs1 => exact messageRead_sameCourse s m _ 32 (sameCourse_resultPair ..)
  case ld8 rd rs1 => exact messageRead_sameCourse s m _ 1 (sameCourse_result64 ..)
  case ld32 rd rs1 => exact messageRead_sameCourse s m _ 4 (sameCourse_result64 ..)
  case ld64 rd rs1 => exact messageRead_sameCourse s m _ 8 (sameCourse_result64 ..)
  case hash w => exact ⟨_, _, rfl, rfl, acceptHash_sameCourse _ s m fun u => startHash_sameCourse w u m⟩
  case hash128s => exact ⟨_, _, rfl, rfl, acceptHash_sameCourse _ s m fun u => body128_sameCourse u m ..⟩
  all_goals exact ⟨_, _, rfl, rfl, rfl, rfl, rfl, rfl, rfl, rfl, rfl⟩

theorem consumeGroup_sameCourse (s : State) (m : Memory) : SameCourse (consumeGroup s) (consumeGroup (s.withMem m)) := by
  obtain ⟨w, e, -⟩ := consumeGroup_advances s
  obtain ⟨w', e', -⟩ := consumeGroup_advances (s.withMem m)
  rw [e, e']
  exact sameCourse_advance s m _ w w'

theorem finishStep_sameCourse (s : State) (m : Memory) : SameCourse (finishStep s) (finishStep (s.withMem m)) := by
  simp only [finishStep, State.withMem_mode]
  cases s.mode <;> exact sameCourse_deliver ..

theorem sequencerStep_sameCourse (s : State) (m : Memory) :
    SameCourse (sequencerStep s) (sequencerStep (s.withMem m)) := by
  simp only [sequencerStep, State.withMem_phase]
  cases s.phase
  case idle => exact ⟨rfl, rfl, rfl, rfl, rfl, rfl, rfl⟩
  case loop => exact .ite (sameCourse_raise s m _) (consumeGroup_sameCourse s m)
  case fin => exact finishStep_sameCourse s m

/-- Settles O40: every command (`exec_sameCourse`), and the sequencer's own step. -/
theorem courseIsIndependentOfTheData : Obligations.CourseIsIndependentOfTheData :=
  ⟨exec_sameCourse, fun s m hh =>
    ⟨_, _, step_of_no_host hh, step_of_no_host (s := s.withMem m) hh, sequencerStep_sameCourse s m⟩⟩

end Sys2Proof.Machine
end

section
/-! A hash beside a host that moves (spec/45_system.md R185, R193, R195): a run with quiet host moves is compared with the run of
the same hash alone. The two agree in everything but the host's part of the state until the hash ends: each step is a move of the
host's, which the other run does not see, or the same sequencer step in both. -/

namespace Sys2Proof.Machine

/-! ### The invariant without its memory

A statement about every state is about memories that are not in canonical form too; what keeps the groups inside the message is
the rest of the invariant. -/

/-- The invariant but for the memory's canonical form. -/
def State.InvButMemory (s : State) : Prop := (s.withMem []).Inv

/-- Of the working registers the invariant reads `S.soff` and `S.mlen` alone. -/
theorem State.Inv.withWork {s : State} (hs : s.Inv) {w : Work} (hsoff : w.soff = s.work.soff) (hmlen : w.mlen = s.work.mlen) :
    State.Inv { s with work := w } where
  memory := hs.memory
  width := hs.width
  noWidth := hs.noWidth
  digest32 := hs.digest32
  digest64 := hs.digest64
  running := hs.running
  long h := by simpa only [State.longEnough, State.bodyIsTail, hsoff, hmlen] using hs.long h
  position h := by simpa only [State.loopStart, State.loopCount, hsoff, hmlen] using hs.position h
  loopLeft := hs.loopLeft
  finLeft := hs.finLeft

section
variable {s t u : State}

theorem State.InvButMemory.consumeGroup (hs : s.InvButMemory) (hp : s.phase = .loop) : (consumeGroup s).InvButMemory := by
  obtain ⟨w, e, hsoff, hmlen⟩ := consumeGroup_advances s
  obtain ⟨w', e', hsoff', hmlen'⟩ := consumeGroup_advances (s.withMem [])
  have hinv : ((s.withMem []).advance (BitVec.ofNat 64 s.mode.group) w').Inv := e' ▸ State.Inv.consumeGroup hs hp
  rw [e]
  exact hinv.withWork (hsoff.trans hsoff'.symm) (hmlen.trans hmlen'.symm)

/-- Following a plan does not depend on what the memory holds. -/
theorem FollowsPlan.withMem {w : BitVec 8} {plan : Option (Mode × Nat × Nat)} (h : FollowsPlan w plan s t) (m : Memory) :
    FollowsPlan w plan (s.withMem m) (t.withMem m) := by
  cases plan with
  | none =>
    obtain ⟨d0, d1, hform, rfl⟩ := h
    exact ⟨d0, d1, hform, rfl⟩
  | some mpc =>
    obtain ⟨⟨pos, cnt, wk, rfl, hpos, hcnt⟩, hrest⟩ := h
    exact ⟨⟨pos, cnt, wk, rfl, hpos, hcnt⟩, hrest⟩

/-! ### A quiet host -/

/-- A memory and moves to come that leave a running hash of the state alone. -/
def QuietBeside (s : State) (m : Memory) (moves : List HostMove) : Prop :=
  SameWindow s m ∧ ∀ mv ∈ moves, QuietMove s mv

/-- Whether the host is quiet depends on the window and the bytes there. -/
theorem quietBeside_congr (hctl : SameControl s u) (hmem : SameMemory s u) (m : Memory) (moves : List HostMove) :
    QuietBeside u m moves ↔ QuietBeside s m moves := by
  obtain ⟨-, hbase, hlen⟩ := hctl
  have hmove (mv : HostMove) : QuietMove u mv ↔ QuietMove s mv := by
    cases mv <;> simp only [QuietMove, hbase, hlen]
  have hread : ∀ a, u.mem.read a = s.mem.read a := hmem
  simp only [QuietBeside, SameWindow, hbase, hlen, hmove, hread]

theorem quietBeside_sequencerStep (s : State) (m : Memory) (moves : List HostMove) :
    QuietBeside (sequencerStep s) m moves ↔ QuietBeside s m moves := by
  obtain ⟨-, -, hmem, -, -, -, hcancel, hbase, hlen⟩ := sequencerStep_frame s
  exact quietBeside_congr ⟨hcancel, hbase, hlen⟩ (fun _ => by rw [hmem]) m moves

/-! ### The host's part of the state -/

/-- What the host may change beside a running hash: the memory, its moves to come, and what a bus read leaves. -/
structure HostSide where
  mem : Memory
  host : List HostMove
  busData : Word
  draws : Nat

/-- The state with another host's part. -/
def State.beside (s : State) (p : HostSide) : State :=
  { s.withMem p.mem with host := p.host, busData := p.busData, draws := p.draws }

@[simp] theorem State.beside_mode (s : State) (p : HostSide) : (s.beside p).mode = s.mode := rfl

/-- A group consumed depends on the host's part by the memory alone. -/
theorem consumeGroup_beside (s : State) (p : HostSide) :
    consumeGroup (s.beside p) = (consumeGroup (s.withMem p.mem)).beside p := by
  simp only [consumeGroup_eq, State.beside_mode, State.withMem_mode]
  cases s.mode <;> rfl

/-- A memory write outside the window breaks no duty (R60). -/
theorem State.memWrite_of_outside {a : Word} (b : Byte)
    (h : ¬ (s.base.toNat ≤ a.toNat ∧ a.toNat < s.base.toNat + s.len.toNat)) :
    s.memWrite a b = s.withMem (s.mem.write a.toNat b) := by
  have hout : s.inWindow a = false := by
    rw [State.inWindow, ← Bool.decide_and]
    exact decide_eq_false h
  simp [State.memWrite, State.withMem, hout]

theorem SameWindow.write {m : Memory} (hw : SameWindow s m) {a : Word} (b : Byte)
    (h : ¬ (s.base.toNat ≤ a.toNat ∧ a.toNat < s.base.toNat + s.len.toNat)) : SameWindow s (m.write a.toNat b) :=
  fun a' hlo hhi => (Memory.read_write_other m b (by rintro rfl; exact h ⟨hlo, hhi⟩)).trans (hw a' hlo hhi)

end

/-! ### One step beside the host -/

section
variable {u : State} {p : HostSide}

/-- With a quiet host a step of a busy machine is a move of the host's, which changes the host's part alone, or the sequencer's
own, before which the host may have left the turn (R185, R193). -/
theorem step_beside (hp : u.phase ≠ .idle) (hc : u.cancel = false) (hq : QuietBeside u p.mem p.host) :
    ∃ q : HostSide, QuietBeside u q.mem q.host ∧ q.host <:+ p.host ∧
      ((q.host.length < p.host.length ∧ step (u.beside p) = .next (u.beside q)) ∨
        step (u.beside p) = .next (sequencerStep (u.beside q))) := by
  obtain ⟨hwin, hmoves⟩ := hq
  have hrest {mv : HostMove} {rest : List HostMove} (hh : p.host = mv :: rest) :
      QuietMove u mv ∧ (∀ mv ∈ rest, QuietMove u mv) ∧ rest <:+ p.host ∧ rest.length < p.host.length := by
    rw [hh] at hmoves ⊢
    obtain ⟨hmv, hmoves⟩ := List.forall_mem_cons.mp hmoves
    exact ⟨hmv, hmoves, List.suffix_cons mv rest, Nat.lt_succ_self _⟩
  rcases step_cases (u.beside p) with ⟨-, e⟩ | ⟨rest, hh, e⟩ | ⟨_, _, rest, r, hh, -, e⟩ |
    ⟨off, w, d, rest, r, hh, hr, hw⟩ | ⟨off, w, rest, hh, hr, -⟩ | ⟨a, b, rest, hh, e⟩ | ⟨rest, hh, -⟩
  · exact ⟨p, ⟨hwin, hmoves⟩, List.suffix_rfl, .inr e⟩
  · obtain ⟨-, hm, hsuf, -⟩ := hrest hh
    exact ⟨{ p with host := rest }, ⟨hwin, hm⟩, hsuf, .inr e⟩
  · obtain ⟨-, hm, hsuf, hlt⟩ := hrest hh
    exact ⟨⟨p.mem, rest, (u.beside p).busValue r, p.draws + 1⟩, ⟨hwin, hm⟩, hsuf, .inl ⟨hlt, e⟩⟩
  · obtain ⟨⟨-, hquiet⟩, hm, hsuf, hlt⟩ := hrest hh
    refine ⟨{ p with host := rest }, ⟨hwin, hm⟩, hsuf, .inl ⟨hlt, ?_⟩⟩
    rcases hw with ⟨_, -, hidle, -⟩ | ⟨-, hidle, -⟩ | ⟨-, e⟩ | ⟨rfl, e⟩ | ⟨-, hidle, -⟩ | ⟨-, hidle, -⟩
    · exact absurd hidle hp
    · exact absurd hidle hp
    · exact e
    · obtain ⟨-, hoff⟩ := busReg_cases hr
      rw [e, hquiet (by simpa using hoff), ← hc]
      rfl
    · exact absurd hidle hp
    · exact absurd hidle hp
  · have hout := (busReg_eq_none_iff off w).mp hr
    rcases hh with hh | ⟨d, hh⟩
    · obtain ⟨hin, -⟩ := hrest hh
      exact absurd hout hin
    · obtain ⟨⟨hin, -⟩, -⟩ := hrest hh
      exact absurd hout hin
  · obtain ⟨hout, hm, hsuf, hlt⟩ := hrest hh
    have hwrite := State.memWrite_of_outside (s := (u.beside p).withHost rest) b hout
    exact ⟨{ p with mem := p.mem.write a.toNat b, host := rest }, ⟨hwin.write b hout, hm⟩, hsuf,
      .inl ⟨hlt, e.trans (congrArg _ hwrite)⟩⟩
  · obtain ⟨hfalse, -⟩ := hrest hh
    exact hfalse.elim

/-- A hash on its way with no cancellation requested, no host move to come and its window left alone so far. -/
structure RunsAlone (u : State) : Prop where
  busy : u.phase ≠ .idle
  noMoves : u.host = []
  notCancelled : u.cancel = false
  dutyKept : u.dutyBroken = false
  inv : u.InvButMemory

theorem RunsAlone.sameBytes (h : RunsAlone u) {m : Memory} (hw : SameWindow u m) :
    SameBytes u.len u.msg (u.withMem m).msg := by
  obtain ⟨-, -, hwin⟩ := h.inv.running h.busy
  exact sameBytes_of_sameWindow hwin hw

/-- A loop step does the same beside a quiet host, and the hash goes on (R28, R54). -/
theorem RunsAlone.loopStep (h : RunsAlone u) (hp : u.phase = .loop) (hw : SameWindow u p.mem) :
    RunsAlone (sequencerStep u) ∧ sequencerStep (u.beside p) = (sequencerStep u).beside p := by
  have hinside : u.pos.toNat + u.mode.group ≤ u.len.toNat := State.Inv.group_inside (s := u.withMem []) h.inv hp
  have hdue : 1 ≤ u.cnt.toNat := h.inv.loopLeft hp
  rw [sequencerStep_loop hp h.notCancelled, sequencerStep_loop (s := u.beside p) hp h.notCancelled, consumeGroup_beside,
    consumeGroup_withMem (h.sameBytes hw) hinside]
  refine ⟨?_, rfl⟩
  have hinv := h.inv.consumeGroup hp
  obtain ⟨w, e, -⟩ := consumeGroup_advances u
  rw [e] at hinv ⊢
  refine ⟨?_, h.noMoves, h.notCancelled, h.dutyKept, hinv⟩
  rw [advance_phase_of_due hdue, hp]
  split <;> simp

/-- The finish step delivers the same digest beside a quiet host: of the modes only `M128` reads the message in it (R172). -/
theorem RunsAlone.finishStep (h : RunsAlone u) (hp : u.phase = .fin) (hw : SameWindow u p.mem) :
    ∃ w d0 d1, sequencerStep u = u.deliver w d0 d1 ∧ sequencerStep (u.beside p) = (u.beside p).deliver w d0 d1 := by
  rw [sequencerStep_fin hp, sequencerStep_fin (s := u.beside p) hp]
  have hb := h.dutyKept
  cases hm : u.mode
  case m32 => exact ⟨_, _, _, finishStep_m32 hm hb, finishStep_m32 (s := u.beside p) hm hb⟩
  case m64 => exact ⟨_, _, _, finishStep_m64 hm hb, finishStep_m64 (s := u.beside p) hm hb⟩
  case mcm => exact ⟨_, _, _, finishStep_mcm hm hb, finishStep_mcm (s := u.beside p) hm hb⟩
  case m128 =>
    obtain ⟨hpos, hend⟩ := State.Inv.tail_inside h.inv hp hm
    have hsame : finish128 (u.beside p).msg u.pos u.work = finish128 u.msg u.pos u.work :=
      finish128_congr (h.sameBytes hw) hpos hend
    refine ⟨_, _, _, finishStep_m128 hm hb, (finishStep_m128 (s := u.beside p) hm hb).trans ?_⟩
    exact congrArg (fun d : Word × Word => (u.beside p).deliver 128 d.1 d.2) hsame

/-! ### The run beside the host -/

/-- The hash ended alike in `v` and in `t`: in all that a delivered digest comes with. -/
def EndsAlike (v t : State) : Prop :=
  t.phase = v.phase ∧ t.cond = v.cond ∧ SameDigest v t ∧ SameOperandsBut [] v t ∧ SameControl v t ∧ t.params = v.params

theorem endsAlike_deliver (u : State) (p : HostSide) (w : BitVec 8) (d0 d1 : Word) :
    EndsAlike (u.deliver w d0 d1) ((u.beside p).deliver w d0 d1) :=
  ⟨rfl, rfl, ⟨rfl, rfl, rfl, rfl⟩, fun _ _ => ⟨rfl, rfl⟩, ⟨rfl, rfl, rfl⟩, rfl⟩

/-- Where the host makes no move an idle machine stays as it is (R220). -/
theorem runs_of_idle (hp : u.phase = .idle) (hh : u.host = []) (n : Nat) : runs n u = .next u := by
  have hstep : step u = .next u := by rw [step_of_no_host hh, sequencerStep_idle hp]
  induction n with
  | zero => exact runs_zero u
  | succ n ih => rw [runs_step hstep, ih]

/-- Where a hash alone ends in `v` within `n` steps, it ends alike beside a quiet host, within a step more for each of the host's
moves: by induction on the steps and moves left. -/
theorem RunsAlone.ends_beside {n : Nat} {v : State} (h : RunsAlone u) (hq : QuietBeside u p.mem p.host)
    (hrun : runs n u = .next v) (hv : v.phase = .idle) :
    ∃ k t, k ≤ n + p.host.length ∧ runs k (u.beside p) = .next t ∧ EndsAlike v t ∧ QuietBeside u t.mem t.host ∧
      t.host <:+ p.host := by
  induction hN : n + p.host.length using Nat.strong_induction_on generalizing n u p with
  | _ N ih =>
    obtain ⟨q, hquiet, hsuf, ⟨hlt, hstep⟩ | hstep⟩ := step_beside h.busy h.notCancelled hq
    · obtain ⟨k, t, hk, hruns, hend, hqt, hsuf'⟩ := ih (n + q.host.length) (by omega) h hquiet hrun rfl
      exact ⟨k + 1, t, by omega, (runs_step hstep).trans hruns, hend, hqt, hsuf'.trans hsuf⟩
    · have hle := hsuf.length_le
      have hwin : SameWindow u q.mem := hquiet.1
      cases n with
      | zero =>
        cases (runs_zero u).symm.trans hrun
        exact absurd hv h.busy
      | succ n =>
        have hrun' : runs n (sequencerStep u) = .next v := (runs_step (step_of_no_host h.noMoves)).symm.trans hrun
        cases hp : u.phase with
        | idle => exact absurd hp h.busy
        | loop =>
          obtain ⟨halone, e⟩ := h.loopStep hp hwin
          obtain ⟨k, t, hk, hruns, hend, hqt, hsuf'⟩ := ih (n + q.host.length) (by omega) halone
            ((quietBeside_sequencerStep u _ _).mpr hquiet) hrun' rfl
          exact ⟨k + 1, t, by omega, (runs_step hstep).trans (e ▸ hruns), hend, (quietBeside_sequencerStep u _ _).mp hqt,
            hsuf'.trans hsuf⟩
        | fin =>
          obtain ⟨w, d0, d1, e, e'⟩ := h.finishStep hp hwin
          rw [e, runs_of_idle (u := u.deliver w d0 d1) rfl h.noMoves n] at hrun'
          cases hrun'
          exact ⟨1, _, by omega, (runs_step (hstep.trans (congrArg _ e'))).trans (runs_zero _),
            endsAlike_deliver u q w d0 d1, hquiet, hsuf⟩

end

/-! ### The start step beside the host -/

section
variable (s : State) (moves : List HostMove)

theorem State.ite_withHost {c : Prop} [Decidable c] (t u : State) :
    (if c then t else u).withHost moves = if c then t.withHost moves else u.withHost moves :=
  apply_ite (fun v : State => v.withHost moves) c t u

theorem start32_withHost : start32 (s.withHost moves) = (start32 s).withHost moves := by
  simp only [start32, State.ite_withHost]
  rfl

theorem start64_withHost : start64 (s.withHost moves) = (start64 s).withHost moves := by
  simp only [start64, State.ite_withHost]
  rfl

theorem body128_withHost (lo hi soff k : Word) :
    body128 (s.withHost moves) lo hi soff k = (body128 s lo hi soff k).withHost moves := by
  simp only [body128, State.ite_withHost]
  rfl

theorem startHash_withHost (w : BitVec 8) : startHash w (s.withHost moves) = (startHash w s).withHost moves := by
  simp only [startHash, start128, State.ite_withHost, start32_withHost, start64_withHost, body128_withHost]
  rfl

theorem start128s_withHost : start128s (s.withHost moves) = (start128s s).withHost moves := body128_withHost ..

end

section
variable {s u : State} {i : Instr} {w : BitVec 8} {plan : Option (Mode × Nat × Nat)} {d0 d1 : Word}

/-- A start step that entered a loop leaves a hash running alone, where the host has no move. -/
theorem runsAlone_of_entersLoop {m : Mode} {p c : Nat} (hc : s.cancel = false) (hwin : s.base.toNat + s.len.toNat ≤ 2 ^ 64)
    (hh : s.host = []) (h : FollowsPlan w (some (m, p, c)) s.withoutDigest u) : RunsAlone u := by
  have hinv : u.InvButMemory :=
    inv_of_followsPlan (s := s.withoutDigest.withMem []) Memory.wf_nil hwin rfl rfl (h.withMem [])
  obtain ⟨⟨pos, cnt, wk, rfl, -⟩, -⟩ := h
  exact ⟨by simp, hh, hc, rfl, hinv⟩

/-- The start step and the rest of its hash beside a quiet host end as they do alone. -/
theorem FollowsPlan.ends_beside {v : State} (hc : s.cancel = false) (hwin : s.base.toNat + s.len.toNat ≤ 2 ^ 64)
    (hh : s.host = []) (h : FollowsPlan w plan s.withoutDigest u) {moves : List HostMove}
    (hquiet : ∀ mv ∈ moves, QuietMove s mv) (hrun : runs (planSteps plan) u = .next v) (hv : v.phase = .idle) :
    ∃ k t, k ≤ planSteps plan + moves.length ∧ runs k (u.withHost moves) = .next t ∧ EndsAlike v t ∧
      SameWindow s t.mem ∧ t.host <:+ moves := by
  obtain ⟨-, ⟨-, hctl, -, hmem⟩, -⟩ := started_of_followsPlan h
  have hq := (quietBeside_congr hctl hmem u.mem moves).mpr ⟨fun a _ _ => hmem a, hquiet⟩
  cases plan with
  | none =>
    cases (runs_zero u).symm.trans hrun
    have hend : EndsAlike u (u.withHost moves) :=
      ⟨rfl, rfl, ⟨rfl, rfl, rfl, rfl⟩, fun _ _ => ⟨rfl, rfl⟩, ⟨rfl, rfl, rfl⟩, rfl⟩
    exact ⟨0, _, Nat.zero_le _, runs_zero _, hend, fun a _ _ => hmem a, List.suffix_rfl⟩
  | some mpc =>
    have halone := runsAlone_of_entersLoop hc hwin hh h
    obtain ⟨k, t, hk, hruns, hend, hqt, hsuf⟩ :=
      halone.ends_beside (p := ⟨u.mem, moves, u.busData, u.draws⟩) hq hrun hv
    obtain ⟨hw, -⟩ := (quietBeside_congr hctl hmem t.mem t.host).mp hqt
    exact ⟨k, t, hk, hruns, hend, hw, hsuf⟩

/-- A hash that ended as one that delivered alone has delivered beside the host. -/
theorem deliveredBesideHost_of_endsAlike {v t : State} (hdel : Delivered w d0 d1 (s.withHost []) v) (hend : EndsAlike v t)
    (hw : SameWindow s t.mem) (hsuf : t.host <:+ s.host) : DeliveredBesideHost w d0 d1 s t := by
  obtain ⟨hphase, hcond, hdv, hdw, h0, h1, hops, hctl, ⟨-, -, hparams⟩, -⟩ := hdel
  obtain ⟨ephase, econd, ⟨edv, edw, e0, e1⟩, eops, ectl, eparams⟩ := hend
  obtain ⟨hcancel, hbase, hlen⟩ := hctl
  obtain ⟨ecancel, ebase, elen⟩ := ectl
  obtain ⟨used, hused⟩ := hsuf
  refine ⟨ephase.trans hphase, econd.trans hcond, edv.trans hdv, edw.trans hdw, e0.trans h0, e1.trans h1, fun r hr => ?_,
    ⟨ecancel.trans hcancel, ebase.trans hbase, elen.trans hlen⟩, eparams.trans hparams, hw, used, hused.symm⟩
  obtain ⟨hx, hwritten⟩ := hops r hr
  obtain ⟨ex, ewritten⟩ := eops r hr
  exact ⟨ex.trans hx, ewritten.trans hwritten⟩

/-- A hash whose start step follows a plan, and which delivers where the host makes no move, delivers the same beside a quiet
host. -/
theorem delivers_beside_host {start : State → State} (hc : s.cancel = false) (hwin : s.base.toNat + s.len.toNat ≤ 2 ^ 64)
    (hquiet : ∀ mv ∈ s.host, QuietMove s mv)
    (hexec : ∀ r : State, r.cancel = false → r.base.toNat + r.len.toNat ≤ 2 ^ 64 → exec i r = .next (start r.withoutDigest))
    (hhost : start s.withoutDigest = (start (s.withHost []).withoutDigest).withHost s.host)
    (hplan : FollowsPlan w plan (s.withHost []).withoutDigest (start (s.withHost []).withoutDigest))
    (hdel : ∃ v, CommandThenRuns i (planSteps plan) (s.withHost []) v ∧ Delivered w d0 d1 (s.withHost []) v) :
    ∃ k t, k ≤ planSteps plan + s.host.length ∧ CommandThenRuns i k s t ∧ DeliveredBesideHost w d0 d1 s t := by
  obtain ⟨v, ⟨u, hu, hrun⟩, hv⟩ := hdel
  cases (hexec (s.withHost []) hc hwin).symm.trans hu
  have hidle : v.phase = .idle := hv.1
  obtain ⟨k, t, hk, hruns, hend, hw, hsuf⟩ := hplan.ends_beside (s := s.withHost []) hc hwin rfl hquiet hrun hidle
  exact ⟨k, t, hk, ⟨_, hexec s hc hwin, hhost ▸ hruns⟩, deliveredBesideHost_of_endsAlike hv hend hw hsuf⟩

theorem exec_hash128s_eq_start (hc : s.cancel = false) (hwin : s.base.toNat + s.len.toNat ≤ 2 ^ 64) :
    exec .hash128s s = .next (start128s s.withoutDigest) := by
  rw [exec, execHash128s, acceptHash_eq_start _ hc hwin]

/-- `HASH` of a supported width, by its delivery alone. -/
theorem hash_delivers_beside_host (hw : w = 32 ∨ w = 64 ∨ w = 128) (hc : s.cancel = false)
    (hwin : s.base.toNat + s.len.toNat ≤ 2 ^ 64) (hquiet : ∀ mv ∈ s.host, QuietMove s mv)
    (hdel : ∃ v, CommandThenRuns (.hash w) (planSteps (hashPlan w s.params.iterRule s.len.toNat)) (s.withHost []) v ∧
      Delivered w d0 d1 (s.withHost []) v) :
    ∃ k t, k ≤ planSteps (hashPlan w s.params.iterRule s.len.toNat) + s.host.length ∧ CommandThenRuns (.hash w) k s t ∧
      DeliveredBesideHost w d0 d1 s t :=
  delivers_beside_host hc hwin hquiet (fun _ => exec_hash_eq_start hw)
    (startHash_withHost (s.withHost []).withoutDigest s.host w) (startHash_followsPlan hw (s.withHost []).withoutDigest) hdel

end

/-- Settles O52: each hash delivers alone (`hash32RunDeliversTheDigest` and its fellows for the other widths), and so it does beside
a quiet host (`delivers_beside_host`). -/
theorem hashesRunBesideTheHost : Obligations.HashesRunBesideTheHost := by
  intro s hc hwin hquiet
  obtain ⟨h64, -⟩ := hash64RunDeliversTheDigest
  obtain ⟨h128, h128s⟩ := hash128RunsDeliverTheDigest (s.withHost []) hc hwin rfl
  refine ⟨?_, ?_, ?_, ?_⟩
  · exact hash_delivers_beside_host (.inl rfl) hc hwin hquiet (hash32RunDeliversTheDigest (s.withHost []) hc hwin rfl)
  · exact hash_delivers_beside_host (.inr (.inl rfl)) hc hwin hquiet (h64 (s.withHost []) hc hwin rfl)
  · exact hash_delivers_beside_host (.inr (.inr rfl)) hc hwin hquiet h128
  · exact delivers_beside_host hc hwin hquiet (fun _ => exec_hash128s_eq_start)
      (start128s_withHost (s.withHost []).withoutDigest s.host) (start128s_followsPlan (s.withHost []).withoutDigest) h128s

end Sys2Proof.Machine
end

section
/-! The conditions and `CANCEL` (spec/60_exceptions.md R201 to R212): a raise before any read, the widths that are refused, the
step that samples `CANCEL`, and who writes it. -/

namespace Sys2Proof.Machine

/-! ### A raise reads no memory -/

/-- Settles O19: the command is its raise (`exec_messageRead_outside`), which under any other memory is the same raise. -/
theorem readsOutsideTheMessageRaiseBounds : Obligations.ReadsOutsideTheMessageRaiseBounds := fun _ _ _ s hi hout =>
  ⟨_, exec_messageRead_outside hi hout, raised_raise .bounds s, rfl, rfl,
    fun m => exec_messageRead_outside (s := s.withMem m) hi hout⟩

/-! ### The width check -/

theorem supportedWidth_eq_false {w : BitVec 8} (h32 : w ≠ 32) (h64 : w ≠ 64) (h128 : w ≠ 128) :
    supportedWidth w = false :=
  Bool.eq_false_iff.mpr fun h => by
    rcases (supportedWidth_iff w).mp h with rfl | rfl | rfl <;> contradiction

/-- A start step completes or enters its loop, and either way `COND` is `OK` (R28, R203). -/
theorem cond_of_startEnd {s t : State} (h : StartEnd s t) : t.cond = .ok := by
  rcases h with ⟨_, _, _, rfl⟩ | ⟨_, _, _, _, rfl⟩ <;> rfl

/-- Past the width check a hash ends `CANCELLED` or `BOUNDS`, or starts with `OK` (R187). -/
theorem acceptHash_cond_ne_unsupportedWidth (s : State) {start : State → State} (h : ∀ u, StartEnd u (start u)) :
    (s.acceptHash true start).cond ≠ .unsupportedWidth := by
  rcases State.acceptHash_cases s true start with ⟨hok, -⟩ | ⟨-, -, e⟩ | ⟨-, -, -, e⟩ | ⟨-, -, -, e⟩
  · cases hok
  · simp [e]
  · simp [e]
  · simp [e, cond_of_startEnd (h _)]

/-- Settles O24: an unsupported width is the raise of `exec_hash_unsupported` under every memory, and the other hashes pass the
width check. -/
theorem unsupportedWidthIsRejectedFirst : Obligations.UnsupportedWidthIsRejectedFirst := by
  refine ⟨fun w s h32 h64 h128 => ?_, fun i s hi => ?_⟩
  · have hw := supportedWidth_eq_false h32 h64 h128
    obtain ⟨hraised, hdv, hdw⟩ := raised_withoutDigest .unsupportedWidth s
    exact ⟨_, exec_hash_unsupported hw s, hraised, hdv, hdw,
      BitVec.eq_of_toNat_eq (status_toNat_of_idle_of_cleared rfl hdv hdw),
      fun m => exec_hash_unsupported hw (s.withMem m)⟩
  · rcases hi with rfl | rfl | rfl | rfl
    · exact ⟨_, rfl, acceptHash_cond_ne_unsupportedWidth s (startHash_end 32)⟩
    · exact ⟨_, rfl, acceptHash_cond_ne_unsupportedWidth s (startHash_end 64)⟩
    · exact ⟨_, rfl, acceptHash_cond_ne_unsupportedWidth s (startHash_end 128)⟩
    · exact ⟨_, rfl, acceptHash_cond_ne_unsupportedWidth s start128s_end⟩

/-! ### The steps that sample `CANCEL` -/

/-- The state with another value of `CANCEL`. -/
def State.withCancel (s : State) (c : Bool) : State := { s with cancel := c }

@[simp] theorem State.withCancel_mode (s : State) (c : Bool) : (s.withCancel c).mode = s.mode := rfl

/-- A finish step does not look at `CANCEL` (R205, R212). -/
theorem finishStep_withCancel (s : State) (c : Bool) : finishStep (s.withCancel c) = (finishStep s).withCancel c := by
  simp only [finishStep, State.withCancel_mode]
  cases s.mode <;> rfl

theorem step_of_cancelled_loop {s : State} (hp : s.phase = .loop) (hc : s.cancel = true) (hh : s.host = []) :
    step s = .next (s.raise .cancelled) := by
  rw [step_of_no_host hh, sequencerStep_cancelled hp hc]

theorem step_of_finish {s : State} (hp : s.phase = .fin) (hh : s.host = []) : step s = .next (finishStep s) := by
  rw [step_of_no_host hh, sequencerStep_fin hp]

/-- Whatever the mode, a finish step ends the hash with a valid digest (R31, R185). -/
theorem finishStep_idle_and_valid (s : State) : (finishStep s).phase = .idle ∧ (finishStep s).dv = true := by
  obtain ⟨w, d0, d1, e, -⟩ := finishStep_cases s
  simp [e]

/-- Settles O34: a cancelled loop step is its raise under every memory, and a finish step the same delivery under every `CANCEL`
(`finishStep_withCancel`). -/
theorem cancellationEndsTheLoopOnly : Obligations.CancellationEndsTheLoopOnly := by
  refine ⟨fun s hp hc hh => ?_, fun s c hp hh => ?_⟩
  · exact ⟨_, step_of_cancelled_loop hp hc hh, raised_raise .cancelled s, rfl, rfl,
      fun m => step_of_cancelled_loop (s := s.withMem m) hp hc hh⟩
  · obtain ⟨hidle, hdv⟩ := finishStep_idle_and_valid s
    refine ⟨_, step_of_finish hp hh, hidle, hdv, ?_⟩
    exact (step_of_finish (s := s.withCancel c) hp hh).trans (congrArg _ (finishStep_withCancel s c))

/-! ### Who writes `CANCEL` -/

theorem cancel_of_startEnd {s t : State} (h : StartEnd s t) : t.cancel = s.cancel := by
  rcases h with ⟨_, _, _, rfl⟩ | ⟨_, _, _, _, rfl⟩ <;> rfl

/-- Of the commands `SRESET` alone writes `CANCEL` (R191, R212). -/
theorem exec_cancel {i : Instr} {s t : State} (h : exec i s = .next t) :
    t.cancel = s.cancel ∨ (i = .sreset ∧ t.cancel = false) := by
  rcases exec_cases i s with ⟨_, _, -, e⟩ | ⟨_, -, e⟩ | e | ⟨-, e⟩ | ⟨hi, e⟩ | ⟨-, _, e⟩ | ⟨-, _, hend, e⟩ <;>
    cases e.symm.trans h
  case inr.inr.inr.inr.inl => exact .inr ⟨hi, rfl⟩
  case inr.inr.inr.inr.inr.inr => exact .inl (cancel_of_startEnd (s := s.withoutDigest) hend)
  all_goals exact .inl rfl

theorem commandStep_cancel {w : BitVec 32} {s t : State} (h : commandStep w s = .next t) :
    t.cancel = s.cancel ∨ (decode w = some .sreset ∧ t.cancel = false) := by
  cases hd : decode w with
  | none =>
    cases (commandStep_of_illegal hd s).symm.trans h
    exact .inl rfl
  | some i =>
    rw [commandStep_of_decode hd] at h
    exact (exec_cancel h).imp_right fun ⟨hi, hc⟩ => ⟨congrArg some hi, hc⟩

theorem cancel_sequencerStep (s : State) : (sequencerStep s).cancel = s.cancel := by
  obtain ⟨-, -, -, -, -, -, hcancel, -⟩ := sequencerStep_frame s
  exact hcancel

theorem offset_of_busReg_ctrl {off width : Nat} (h : busReg off width = some .ctrl) : off = 0x90 ∧ width = 64 := by
  obtain ⟨hw, hoff⟩ := busReg_cases h
  exact ⟨by simpa using hoff, hw⟩

/-- Settles O35, by the cases of a transition (`step_cases`) and, for a command, of `commandStep_cancel`. -/
theorem cancelIsTheHostsAlone : Obligations.CancelIsTheHostsAlone := by
  intro s t h
  rcases step_cases s with ⟨-, e⟩ | ⟨rest, -, e⟩ | ⟨_, _, _, _, -, -, e⟩ | ⟨_, _, d, rest, _, hh, hr, hw⟩ |
    ⟨_, _, _, -, -, e⟩ | ⟨_, _, _, -, e⟩ | ⟨rest, hh, e⟩
  · cases e.symm.trans h
    exact .inl (cancel_sequencerStep s)
  · cases e.symm.trans h
    exact .inl (cancel_sequencerStep { s with host := rest })
  · cases e.symm.trans h
    exact .inl rfl
  · rcases hw with ⟨_, -, -, e⟩ | ⟨rfl, hp, e⟩ | ⟨-, e⟩ | ⟨rfl, e⟩ | ⟨-, -, e⟩ | ⟨-, -, e⟩
    case inr.inl =>
      obtain ⟨rfl, rfl⟩ := offset_of_busReg_cmd hr
      rcases commandStep_cancel (e.symm.trans h) with hsame | ⟨hd, hc⟩
      · exact .inl hsame
      · exact .inr (.inr (.inr ⟨d, rest, hp, hh, trunc32_eq_extractLsb' d ▸ hd, hc⟩))
    case inr.inr.inr.inl =>
      obtain ⟨rfl, rfl⟩ := offset_of_busReg_ctrl hr
      cases e.symm.trans h
      exact .inr (.inl ⟨d, rest, hh, rfl⟩)
    all_goals
      cases e.symm.trans h
      exact .inl rfl
  · cases e.symm.trans h
  · cases e.symm.trans h
    exact .inl rfl
  · cases e.symm.trans h
    exact .inr (.inr (.inl ⟨rest, hh, rfl⟩))

end Sys2Proof.Machine
end
